-- ==== Sys2Proof/Word.lean ====
section
/-! DEFINITION. The byte, and the index types of the part's tables (00_scope.md, Conventions: indices count from 0). -/

namespace Sys2Proof

/-- One byte on a line. -/
abbrev Byte := BitVec 8

/-- Index of a signal record (R1). -/
abbrev SigIx := Fin 512

/-- Index of a slot in its set (R83). -/
abbrev SlotIx := Fin 16

/-- Index of a spreader profile (R105). -/
abbrev ProfileIx := Fin 4

/-- Index of a gate (R40). -/
abbrev GateIx := Fin 32

/-- SLOT table entry of a master slot: profile slot p × 16 + s, cab slot 64 + s (R83). -/
abbrev MasterIx := Fin 80

end Sys2Proof
end

