-- ==== Sys2Proof/Machine/Tab.lean ====
section
/-! DEFINITION. A table of fixed size: a list that carries its length, read and written by index (00_scope.md: indices count
from 0). -/

namespace Sys2Proof.Machine

/-- A table of `n` entries. -/
structure Tab (α : Type) (n : Nat) where
  cells : List α
  size : cells.length = n
  deriving DecidableEq, Repr

namespace Tab
variable {α β : Type} {n : Nat}

/-- Every entry holds `a`. -/
def fill (n : Nat) (a : α) : Tab α n := ⟨List.replicate n a, by simp⟩

/-- The entry at an index of the table. -/
def get (t : Tab α n) (i : Fin n) : α := t.cells[i.val]'(by have := t.size; omega)

/-- The entry at a number, where the table has one. -/
def get? (t : Tab α n) (k : Nat) : Option α := t.cells[k]?

/-- The table with one entry replaced. -/
def set (t : Tab α n) (i : Fin n) (a : α) : Tab α n := ⟨t.cells.set i a, by simpa using t.size⟩

/-- The table with one entry changed by a function. -/
def modify (t : Tab α n) (i : Fin n) (f : α → α) : Tab α n := t.set i (f (t.get i))

/-- The list mapped with the index of each entry, from `k` on. -/
def mapFrom (f : Fin n → α → β) : (l : List α) → (k : Nat) → k + l.length = n → List β
  | [], _, _ => []
  | a :: l, k, h => f ⟨k, by simp at h; omega⟩ a :: mapFrom f l (k + 1) (by simp at h ⊢; omega)

theorem length_mapFrom (f : Fin n → α → β) :
    ∀ (l : List α) (k : Nat) (h : k + l.length = n), (mapFrom f l k h).length = l.length
  | [], _, _ => rfl
  | _ :: l, k, h => by simp [mapFrom, length_mapFrom f l (k + 1)]

/-- The table mapped entry by entry, each with its index. -/
def mapIdx (f : Fin n → α → β) (t : Tab α n) : Tab β n :=
  ⟨mapFrom f t.cells 0 (by simpa using t.size), by simpa [length_mapFrom] using t.size⟩

/-- The table mapped entry by entry. -/
def map (f : α → β) (t : Tab α n) : Tab β n := ⟨t.cells.map f, by simpa using t.size⟩

end Tab

/-- The indices of a table in ascending order. -/
def indices (n : Nat) : List (Fin n) := List.finRange n

end Sys2Proof.Machine
end

