-- ==== Sys2Proof/Syntax.lean ====
section
/-! DEFINITION. The commands: one constructor for each row of spec/opcode_table.json, with the operands each row takes. -/

namespace Sys2Proof

/-- The two lines the part masters (R82). -/
inductive MasterLine where
  | sp | cp
  deriving DecidableEq, Repr

/-- The three serial lines. -/
inductive Line where
  | sp | cp | fp
  deriving DecidableEq, Repr

/-- The two supplies the Feed Watch monitors (R143). -/
inductive Feed where
  | spreader | cab
  deriving DecidableEq, Repr

/-- Kinds of frame (R65). -/
inductive Kind where
  | data | poll | hail | hailReply | mgmt | mgmtReply
  deriving DecidableEq, Repr

/-- The fields of a frame (R65); lead, length and CRC follow from them. -/
structure Frame where
  address : BitVec 5
  kind : Kind
  tag : BitVec 6
  attn : Bool
  ovf : Bool
  payload : List Byte
  deriving DecidableEq, Repr

/-- One received character: its data bits and whether its stop bit was good (R67). -/
structure LineChar where
  data : Byte
  stopGood : Bool
  deriving DecidableEq, Repr

/-- The commands of the part. A reception row names the event at the END of a reception; `windowEnded` says whether the
response window or search window that was open when the reception began ended while it went on (R90, R108). The request
bytes of a management row are the payload bytes after the command code (R72). -/
inductive Instr where
  | powerOn (strap : BitVec 5)
  | resetInputAssert
  | resetInputRelease (strap : BitVec 5)
  | ageTimerExpiry
  | status (tag : BitVec 6) (req : List Byte)
  | enterConfig (tag : BitVec 6) (req : List Byte)
  | enterRun (tag : BitVec 6) (req : List Byte)
  | restart (tag : BitVec 6) (req : List Byte)
  | warmRestart
  | readTable (tag : BitVec 6) (req : List Byte)
  | writeTable (tag : BitVec 6) (req : List Byte)
  | readSignals (tag : BitVec 6) (req : List Byte)
  | writeSignal (tag : BitVec 6) (req : List Byte)
  | force (tag : BitVec 6) (req : List Byte)
  | release (tag : BitVec 6) (req : List Byte)
  | releaseAll (tag : BitVec 6) (req : List Byte)
  | sendOnce (tag : BitVec 6) (req : List Byte)
  | readEvents (tag : BitVec 6) (req : List Byte)
  | unknownCommand (tag : BitVec 6) (payload : List Byte)
  | frameError (line : Line) (chars : List LineChar) (windowEnded : Bool)
  | strayFrame (line : Line) (frame : Frame) (windowEnded : Bool)
  | masterResponseAccepted (line : MasterLine) (frame : Frame)
  | hailReplyTaken (frame : Frame)
  | festoonDataAccepted (frame : Frame)
  | festoonPoll (frame : Frame)
  | festoonReceptionStart
  | festoonDataAnswer
  | mgmtReplyStart
  | cycleTimerExpiry (line : MasterLine)
  | outTurnStart (line : MasterLine)
  | outFrameEnd (line : MasterLine)
  | turnBoundary (line : MasterLine)
  | inTurn (line : MasterLine)
  | pollEnd (line : MasterLine)
  | responseWindowExpiry (line : MasterLine)
  | firstHail
  | searchTimerExpiry
  | hailEnd
  | searchWindowExpiry
  | detachTimerExpiry (line : Line)
  | staleTimerExpiry (slot : SlotIx)
  | sweep
  | l2ChainBuild
  | scanTimerExpiry
  | scanCompletion (samples : BitVec 16) (readings : Machine.Tab (BitVec 12) 16)
  | feedReading (feed : Feed)
  | portHold (line : MasterLine)
  | portRelease (line : MasterLine)
  | lineRest (line : Line)
  deriving DecidableEq, Repr

end Sys2Proof
end

