-- ==== Sys2Proof/Decode.lean ====
section
/-! DEFINITION. The commands that table words spell: spec/opcode_table.json gives no row any bits, so no word spells a command. -/

namespace Sys2Proof

/-- The command a word spells by the table's bits: none, since every row's "fields" is empty. -/
def decodeTableWord (_nbits _w : Nat) : Option Instr := none

end Sys2Proof
end

