-- ==== Sys2Proof/Config.lean ====
section
/-! DEFINITION. The constants the manual fixes for the part, and the free values it leaves open. -/

namespace Sys2Proof.Config

/-- Part code reported by STATUS (R74). -/
def partCode : Nat := 0x0216

/-- Revision reported by STATUS (R74). -/
def revision : Nat := 3

/-- Duration of a detachment in ms (R79). -/
def detachMs : Nat := 250

/-- Records the event queue holds (R171). -/
def queueSize : Nat := 32

/-- Signals that may carry a force (R16). -/
def forceLimit : Nat := 32

/-- Score at which a frame error overflows (R77). -/
def overflowScore : Nat := 248

/-- Score at which an ACTIVE port becomes DEGRADED (R78). -/
def degradedScore : Nat := 96

/-- Score at which a DEGRADED port returns to ACTIVE (R78). -/
def recoveredScore : Nat := 63

/-- Least open reading of a channel with open-check set (R132). -/
def openReading : Nat := 4064

/-- Age that no age exceeds (R2). -/
def maxAge : Nat := 65535

/-- Most records one READ_EVENTS returns (R173). -/
def eventsPerReply : Nat := 6

/-- Most signals one READ_SIGNALS returns (R169). -/
def signalsPerReply : Nat := 8

/-- Bytes a READ_TABLE reply has for its records (R76). -/
def recordRoom : Nat := 42

/-- FREE VALUE (log 14, DESIGN CHOICE). The value and quality bytes of a last-reported view that is unset, which R174
does not give, for one draw and one WATCH entry: bits 0 to 15 the value, bits 16 to 23 the quality. -/
opaque unsetViewBits : Nat → Nat → BitVec 24

end Sys2Proof.Config
end

