-- ==== Sys2Proof/Machine/Bits.lean ====
section
/-! DEFINITION. Byte order and bit fields: little-endian numbers in requests, replies and records (R72, R76), and the
numbering of payload bits (R22, R23). -/

namespace Sys2Proof.Machine

/-- A number as `k` bytes, lowest first (R72). -/
def leBytes : Nat → Nat → List Byte
  | 0, _ => []
  | k + 1, n => BitVec.ofNat 8 n :: leBytes k (n / 256)

/-- A signed number as two bytes, in two's complement (R72, R76). -/
def leSigned (v : Int) : List Byte := leBytes 2 (BitVec.ofInt 16 v).toNat

/-- The number whose bytes these are, lowest first: payload bit b of R22 is bit b of it. -/
def leNat : List Byte → Nat
  | [] => 0
  | b :: bs => b.toNat + 256 * leNat bs

/-- The byte at a position; 0 past the end (every reader checks the length first). -/
def byteAt (bs : List Byte) (k : Nat) : Nat := (bs.getD k 0).toNat

/-- The two-byte number at a position (R76). -/
def wordAt (bs : List Byte) (k : Nat) : Nat := byteAt bs k + 256 * byteAt bs (k + 1)

/-- The two-byte signed number at a position, in two's complement (R76). -/
def intAt (bs : List Byte) (k : Nat) : Int := (BitVec.ofNat 16 (wordAt bs k)).toInt

/-- The pattern of the field of `width` bits at bit `offset` of a payload (R22). -/
def extractField (payload offset width : Nat) : Nat := payload / 2 ^ offset % 2 ^ width

/-- The payload with the field's bits written and every other bit as it stands (R22). -/
def insertField (payload offset width pattern : Nat) : Nat :=
  payload / 2 ^ (offset + width) * 2 ^ (offset + width) + pattern % 2 ^ width * 2 ^ offset + payload % 2 ^ offset

/-- The number an extracted pattern of `width` bits carries (R23). -/
def fieldNumber (signed : Bool) (width pattern : Nat) : Int :=
  if signed && 2 ^ (width - 1) ≤ pattern then (pattern : Int) - 2 ^ width else pattern

/-- The number nearest to `v` within `lo` to `hi`. -/
def clampInt (lo hi v : Int) : Int := if v < lo then lo else if hi < v then hi else v

/-- The number fitted to a field of `width` bits (R33). -/
def fitNumber (signed : Bool) (width : Nat) (v : Int) : Int :=
  if signed then clampInt (-(2 ^ (width - 1))) (2 ^ (width - 1) - 1) v else clampInt 0 (2 ^ width - 1) v

/-- The pattern of `width` bits that carries a number of the field's range: n mod 2^w (R23). -/
def fieldPattern (width : Nat) (v : Int) : Nat := (v % (2 ^ width : Int)).toNat

/-- A one-byte flag or choice coded 0 or 1 (R76): 0 no, 1 yes. -/
def flagByte (b : Bool) : Byte := if b then 1 else 0

end Sys2Proof.Machine
end

