-- ==== Sys2Proof/Machine/Frames.lean ====
section
/-! DEFINITION. Line frames: kinds, layout, CRC, the four checks of a reception, and line time (R65 to R70). -/

namespace Sys2Proof.Machine

/-- Kind code of byte 1 (R65). -/
def kindCode : Kind → Nat
  | .data => 0 | .poll => 1 | .hail => 2 | .hailReply => 3 | .mgmt => 4 | .mgmtReply => 5

/-- The kind of a code; 6 and 7 are unused (R65). -/
def kindOfCode : Nat → Option Kind
  | 0 => some .data | 1 => some .poll | 2 => some .hail | 3 => some .hailReply | 4 => some .mgmt | 5 => some .mgmtReply
  | _ => none

/-- Longest payload of a kind (R65). -/
def kindLimit : Kind → Nat
  | .data => 16 | .poll => 0 | .hail => 0 | .hailReply => 6 | .mgmt => 48 | .mgmtReply => 48

/-- One shift of the CRC register (R68). -/
def crcShift (r : BitVec 16) : BitVec 16 := if r.msb then (r <<< 1) ^^^ 0x1021#16 else r <<< 1

/-- The register after one byte: combined into bits 15 to 8, then shifted eight times (R68). -/
def crcByte (r : BitVec 16) (b : Byte) : BitVec 16 :=
  crcShift (crcShift (crcShift (crcShift (crcShift (crcShift (crcShift (crcShift (r ^^^ (b.setWidth 16 <<< 8)))))))))

/-- The CRC of the covered bytes, from 0xFFFF, with no final inversion (R68). -/
def crc (bs : List Byte) : BitVec 16 := bs.foldl crcByte 0xFFFF#16

/-- Byte 1 of a frame: address in bits 0 to 4, kind in bits 5 to 7 (R65). -/
def headByte (f : Frame) : Byte := BitVec.ofNat 8 (f.address.toNat + 32 * kindCode f.kind)

/-- Byte 2 of a frame: tag in bits 0 to 5, ATTN in bit 6, OVF in bit 7 (R65). -/
def tagByte (f : Frame) : Byte := BitVec.ofNat 8 (f.tag.toNat + 64 * f.attn.toNat + 128 * f.ovf.toNat)

/-- The bytes the CRC covers: byte 1 to the last payload byte (R68). -/
def coveredBytes (f : Frame) : List Byte := headByte f :: tagByte f :: BitVec.ofNat 8 f.payload.length :: f.payload

/-- The bytes of a frame, first on the wire first (R65). -/
def frameBytes (f : Frame) : List Byte :=
  0xC3#8 :: coveredBytes f ++ [(crc (coveredBytes f)).extractLsb' 8 8, (crc (coveredBytes f)).extractLsb' 0 8]

/-- The payload does not exceed the kind's limit (R65, R69 step 3). -/
def frameWithinLimit (f : Frame) : Bool := f.payload.length ≤ kindLimit f.kind

/-- The step of R69 at which a reception fails. -/
inductive RxStep where
  | lead | kind | length | crc
  deriving DecidableEq, Repr

/-- R69: the four checks of a reception, in order, over the characters received before the line rested for 12 bit times. A
line that rests before the last CRC byte has ended, and a bad stop bit, fail the CRC step. Characters after the last CRC byte
are not part of the frame. No characters are no reception, and what this answers for none is never used (`isFrameError`). -/
def judge (cs : List LineChar) : Except RxStep Frame :=
  let bs := cs.map (·.data)
  if bs.headD 0 ≠ 0xC3#8 then .error .lead
  else if bs.length < 2 then .error .crc
  else match kindOfCode (byteAt bs 1 / 32) with
    | none => .error .kind
    | some k =>
      if bs.length < 4 then .error .crc
      else
        let n := byteAt bs 3
        if kindLimit k < n then .error .length
        else if bs.length < 6 + n then .error .crc
        else if !(cs.take (6 + n)).all (·.stopGood) then .error .crc
        else if crc ((bs.drop 1).take (3 + n)) ≠ BitVec.ofNat 16 (256 * byteAt bs (4 + n) + byteAt bs (5 + n)) then .error .crc
        else .ok { address := BitVec.ofNat 5 (byteAt bs 1), kind := k, tag := BitVec.ofNat 6 (byteAt bs 2)
                   attn := byteAt bs 2 / 64 % 2 == 1, ovf := byteAt bs 2 / 128 == 1, payload := (bs.drop 4).take n }

/-- A reception fails a step of R69. A reception begins with a first character, so no characters are no reception and no frame error:
FRAME_ERROR without one cannot occur (log 1). -/
def isFrameError (cs : List LineChar) : Bool :=
  !cs.isEmpty && (match judge cs with
    | .error _ => true
    | .ok _ => false)

/-- The characters of a frame as sent, every stop bit good. -/
def frameChars (f : Frame) : List LineChar := (frameBytes f).map fun b => ⟨b, true⟩

/-- Bit times a frame of `n` payload bytes occupies the line (R70). -/
def frameBitTimes (n : Nat) : Nat := 10 * (6 + n)

/-- The turnaround gap in bit times (R70). -/
def gapBitTimes : Nat := 24

/-- The broadcast address (R66). -/
def broadcast : BitVec 5 := 31

/-- The festoon address of a strap value: 0 becomes 1, 31 becomes 30 (R119). -/
def strapAddress (strap : BitVec 5) : BitVec 5 := if strap = 0 then 1 else if strap = 31 then 30 else strap

end Sys2Proof.Machine
end

