-- ==== Sys2Proof/Machine/State.lean ====
section
/-! DEFINITION. The state of the HL-216: its tables, the signal image, the ports, the gates, the trolley terminals, the feed monitors,
Mode Control and the Management Unit, the queue of waiting commands, and the state after power-on. -/

namespace Sys2Proof.Machine

/-! ### Tables -/

/-- Owner of an area, in the order of R6. -/
inductive Owner where
  | spreader | cab | festoon | trolley | gate | panel
  deriving DecidableEq, Repr

/-- One entry of the area plan (R6). -/
structure AreaEntry where
  enabled : Bool
  first : SigIx
  last : SigIx
  owner : Owner
  forceable : Bool
  deriving DecidableEq, Repr

/-- Line rate (R67). -/
inductive Rate where
  | kbit250 | kbit500 | kbit1000
  deriving DecidableEq, Repr

/-- One LINE entry (R82); times in ms. -/
structure LineEntry where
  enabled : Bool
  rate : Rate
  cyclePeriod : Nat
  searchInterval : Nat
  deriving DecidableEq, Repr

/-- The written fields of one PROFILE entry (R105). -/
structure Profile where
  enabled : Bool
  typeCode : BitVec 16
  deriving DecidableEq, Repr

/-- Direction of a slot or placement, seen from the HL-216, in the order of R19. -/
inductive Direction where
  | inbound | outbound
  deriving DecidableEq, Repr

/-- A chain target: an OUT slot of the Spreader or Cab Port, or slot 2 of pseudo-line L (R76, R96). -/
inductive ChainTarget where
  | sp (slot : SlotIx) | cp (slot : SlotIx) | l
  deriving DecidableEq, Repr

/-- The written fields of a master slot (R83); window in units of 10 µs. -/
structure MasterSlot where
  enabled : Bool
  direction : Direction
  tag : BitVec 6
  node : BitVec 5
  length : Nat
  window : Nat
  missLimit : Nat
  first : Nat
  count : Nat
  once : Bool
  chain : Option ChainTarget
  deriving DecidableEq, Repr

/-- The written fields of a festoon slot (R120); stale limit in ms. -/
structure FestoonSlot where
  enabled : Bool
  direction : Direction
  tag : BitVec 6
  length : Nat
  first : Nat
  count : Nat
  staleLimit : Nat
  chain : Option ChainTarget
  deriving DecidableEq, Repr

/-- Scale of a signal address: 1, 2, 4, 8 or 16 (R8). -/
inductive Scale where
  | x1 | x2 | x4 | x8 | x16
  deriving DecidableEq, Repr

/-- A signal address (R8). -/
structure SigAddr where
  base : SigIx
  selector : Option SigIx
  scale : Scale
  deriving DecidableEq, Repr

/-- One placement record (R19). A width of 0 marks a record never written (R20). -/
structure Placement where
  direction : Direction
  offset : Nat
  width : Nat
  signed : Bool
  addr : SigAddr
  conversion : Option (Fin 64)
  gate : Option GateIx
  safe : BitVec 16
  deriving DecidableEq, Repr

/-- One conversion record (R34). -/
structure Conversion where
  enabled : Bool
  o : Int
  g : Int
  s : Nat
  c : Int
  lo : Int
  hi : Int
  deriving DecidableEq, Repr

/-- One gate record (R40). -/
structure Gate where
  enabled : Bool
  termCount : Nat
  k : Nat
  acceptForced : Bool
  latching : Bool
  rearm : Option SigAddr
  output : SigIx
  chain : Option ChainTarget
  deriving DecidableEq, Repr

/-- The eight tests of a term, in the order of R42. -/
inductive Test where
  | eq | ge | le | any | all | fresh | gate | always
  deriving DecidableEq, Repr

/-- One term record (R42). -/
structure Term where
  addr : SigAddr
  test : Test
  negate : Bool
  k : BitVec 16
  deriving DecidableEq, Repr

/-- The written fields of an analog channel (R130). -/
structure Channel where
  enabled : Bool
  openCheck : Bool
  deriving DecidableEq, Repr

/-- The placements of an L slot (R130). -/
structure LSlot where
  first : Nat
  count : Nat
  deriving DecidableEq, Repr

/-- The written fields of a feed monitor (R143). -/
structure FeedEntry where
  enabled : Bool
  low : Nat
  recover : Nat
  nL : Nat
  nG : Nat
  deriving DecidableEq, Repr

/-- The written fields of a watch entry (R174). -/
structure WatchEntry where
  enabled : Bool
  signal : SigIx
  deadband : Nat
  deriving DecidableEq, Repr

/-- Every table the crane controller writes (00_scope.md, Conventions: Tables). -/
structure Tables where
  areas : Tab AreaEntry 8
  lines : Tab LineEntry 3
  profiles : Tab Profile 4
  masterSlots : Tab MasterSlot 80
  festoonSlots : Tab FestoonSlot 16
  placements : Tab Placement 384
  conversions : Tab Conversion 64
  gates : Tab Gate 32
  sweepPeriod : Nat
  terms : Tab Term 256
  channels : Tab Channel 16
  inputQ : Tab Nat 16
  l0 : LSlot
  l1 : LSlot
  l2 : LSlot
  scanPeriod : Nat
  feeds : Tab FeedEntry 2
  watch : Tab WatchEntry 8
  deriving DecidableEq, Repr

/-! ### Signal image -/

/-- Reason of a SUSPECT quality (R1). -/
inductive Reason where
  | short | opened | feed
  deriving DecidableEq, Repr

/-- Stored quality (R3). -/
inductive Quality where
  | good | clamped | suspect (r : Reason) | stale | absent
  deriving DecidableEq, Repr

/-- One signal record (R1). -/
structure SigRec where
  value : Int
  quality : Quality
  age : Nat
  force : Option Int
  deriving DecidableEq, Repr

/-- Quality of a view (R4). -/
inductive ViewQuality where
  | stored (q : Quality) | forced
  deriving DecidableEq, Repr

/-- What every reader of a signal sees (R4). -/
structure View where
  value : Int
  quality : ViewQuality
  age : Nat
  deriving DecidableEq, Repr

/-! ### Lines and ports -/

/-- Health of a port (R78). -/
inductive Health where
  | active | degraded
  deriving DecidableEq, Repr

/-- What a port is doing on its line: its receiver has footing (the line has rested for 12 bit times, so the next character
begins a reception), is in a reception, ignores characters until the next rest (R69), or the port is sending a frame. -/
inductive LinePhase where
  | rested | receiving | ignoring | sending (f : Frame) (rate : Rate)
  deriving DecidableEq, Repr

/-- The part of a port that judges its line: error score and health (R77, R78), rate in effect (R67), line phase. -/
structure Link where
  score : Nat
  health : Health
  rate : Rate
  phase : LinePhase
  deriving DecidableEq, Repr

/-- State of a master port, in the order of the codes of R74. -/
inductive PortState where
  | off | search | cycling | held | detached
  deriving DecidableEq, Repr

/-- Kind of a turn: a slot's visit in the cycle, or a chained turn of an OUT slot (R88, R89, R98). -/
inductive TurnKind where
  | regularIn | regularOut | chainedOut
  deriving DecidableEq, Repr

/-- The turn a master port is in. -/
inductive Turn where
  /-- no turn -/
  | none
  /-- chosen at a boundary or at the start of a cycle, not yet begun -/
  | due (kind : TurnKind) (slot : SlotIx)
  /-- the OUT DATA frame is on the wire (R88) -/
  | outFrame (slot : SlotIx)
  /-- the gap after the OUT frame (R88) -/
  | outGap (slot : SlotIx)
  /-- the POLL is on the wire (R89) -/
  | poll (slot : SlotIx)
  /-- the response window, or the candidate begun within it (R89, R90) -/
  | window (slot : SlotIx)
  /-- the gap after an accepted response (R90) -/
  | inGap (slot : SlotIx)
  /-- the turn ended in a miss; its end is a turn boundary (R90) -/
  | missed (slot : SlotIx)
  deriving DecidableEq, Repr

/-- A master port. -/
structure MasterPort where
  state : PortState
  link : Link
  turn : Turn
  /-- the place of the cycle in progress: the first slot index not yet visited (R87) -/
  cycle : Option Nat
  /-- the running cycle timer's period in ms, or stopped -/
  cycleTimer : Option Nat
  /-- the cycle timer expired while the present cycle was in progress (R95) -/
  overdue : Bool
  overrun : Bool
  queue : List SlotIx
  detachTimer : Option Nat
  deriving DecidableEq, Repr

/-- Progress of the Spreader Port's search (R107, R108). -/
inductive HailPhase where
  | off | firstDue | sending | window | waiting
  deriving DecidableEq, Repr

/-- Status of a master slot, in the order of the list of "Slot runtime". -/
inductive SlotStatus where
  | disabled | awaiting | live | missing | lost
  deriving DecidableEq, Repr

/-- Runtime of a master slot (R85). -/
structure MasterRt where
  status : SlotStatus
  misses : Nat
  armed : Bool
  arrival : BitVec 16
  deriving DecidableEq, Repr

/-- Status of a festoon slot, in the order of "Festoon slot runtime". -/
inductive FestoonStatus where
  | disabled | awaiting | live | lost
  deriving DecidableEq, Repr

/-- Runtime of a festoon slot (R121); the running stale timer holds its limit in ms. -/
structure FestoonRt where
  status : FestoonStatus
  staleTimer : Option Nat
  arrival : BitVec 16
  deriving DecidableEq, Repr

/-- The answer due on the festoon line (R125 to R127): a slot's DATA, or a reply with its content and its rate fixed (R67). -/
inductive Answer where
  | data (slot : SlotIx)
  | reply (tag : BitVec 6) (payload : List Byte) (rate : Rate)
  deriving DecidableEq, Repr

/-- State of the Festoon Port (R119). -/
inductive FestoonState where
  | listening | detached
  deriving DecidableEq, Repr

/-- The Festoon Port. -/
structure FestoonPort where
  state : FestoonState
  link : Link
  address : BitVec 5
  due : Option Answer
  restartPending : Bool
  detachTimer : Option Nat
  slots : Tab FestoonRt 16
  deriving DecidableEq, Repr

/-! ### Gates, terminals, feed monitors, events -/

/-- State of a gate, in the order of R41. -/
inductive GateState where
  | closed | rising | opened | locked
  deriving DecidableEq, Repr

/-- Runtime of a gate: its state, rise count and the state saved at the end of the previous sweep (R57). -/
structure GateRt where
  state : GateState
  count : Nat
  saved : GateState
  deriving DecidableEq, Repr

/-- State of an analog channel (R133). -/
inductive ChannelState where
  | normal | opened
  deriving DecidableEq, Repr

/-- Runtime of an analog channel (R132, R133). -/
structure ChannelRt where
  state : ChannelState
  openCount : Nat
  last : BitVec 12
  deriving DecidableEq, Repr

/-- Outcome of an enabled channel at a scan (R133). -/
inductive ReadingOutcome where
  | delivered | withheld | opened
  deriving DecidableEq, Repr

/-- Runtime of a digital input (R134). -/
structure InputRt where
  level : Bool
  changes : Nat
  deriving DecidableEq, Repr

/-- Runtime of the Trolley I/O Unit. -/
structure TrolleyIO where
  channels : Tab ChannelRt 16
  inputs : Tab InputRt 16
  firstSample : Bool
  relays : BitVec 8
  scanTimer : Option Nat
  scanInFlight : Bool
  l2Requests : Nat
  deriving DecidableEq, Repr

/-- State of a feed monitor, in the order of R143. -/
inductive FeedState where
  | good | dipping | low | recovering
  deriving DecidableEq, Repr

/-- A reading handed over at a scan completion (R140). -/
structure Handover where
  reading : BitVec 12
  outcome : ReadingOutcome
  deriving DecidableEq, Repr

/-- What a monitor hands to its port (R149, R150). -/
inductive FeedOrder where
  | hold | release
  deriving DecidableEq, Repr

/-- Runtime of a feed monitor (R144), with what has been handed over and not yet been taken. -/
structure FeedRt where
  state : FeedState
  count : Nat
  handovers : List Handover
  orders : List FeedOrder
  deriving DecidableEq, Repr

/-- The events (R75). -/
inductive Event where
  | gateOpened (g : GateIx)
  | gateClosed (g : GateIx) (locked : Bool)
  | slotLost (line : Line) (slot : SlotIx)
  | slotRegained (line : Line) (slot : SlotIx)
  | lineDegraded (line : Line) (score : Nat)
  | lineRecovered (line : Line) (score : Nat)
  | lineDetached (line : Line)
  | spreaderAttached (p : ProfileIx) (typeCode : BitVec 16)
  | spreaderUnknown (typeCode : BitVec 16)
  | spreaderDetached (p : ProfileIx) (cause : Nat)
  | feedLow (feed : Feed) (reading : BitVec 12)
  | feedGood (feed : Feed) (reading : BitVec 12)
  | inputOpen (channel : Fin 16) (reading : BitVec 12)
  | inputRestored (channel : Fin 16) (reading : BitVec 12)
  | cycleOverrun (line : MasterLine)
  | watch (entry : Fin 8) (quality : ViewQuality) (value : Int)
  deriving DecidableEq, Repr

/-- A record of the event queue (R171). -/
structure EventRecord where
  event : Event
  timestamp : BitVec 16
  deriving DecidableEq, Repr

/-- Operating state (R152). -/
inductive Operating where
  | config | run
  deriving DecidableEq, Repr

/-- The state of the part. -/
structure State where
  operating : Operating
  validated : Bool
  timestamp : BitVec 16
  resetHeld : Bool
  tables : Tables
  image : Tab SigRec 512
  sp : MasterPort
  cp : MasterPort
  attached : Option ProfileIx
  serials : Tab (BitVec 32) 4
  searchTimer : Option Nat
  hail : HailPhase
  unknownCode : Option (BitVec 16)
  masterRt : Tab MasterRt 80
  fp : FestoonPort
  gateRt : Tab GateRt 32
  sweepTimer : Option Nat
  tio : TrolleyIO
  feedRt : Tab FeedRt 2
  events : List EventRecord
  ovf : Bool
  watchLast : Tab (Option (Int × ViewQuality)) 8
  freeDraws : Nat
  pending : List Instr
  deriving DecidableEq, Repr

/-- Reasons a step may stop with a fault. The spec names nothing that stops the part, so there is none (safe: nothing is cut off). -/
inductive Fault where
  deriving DecidableEq, Repr

/-- Reasons a step may be refused. -/
inductive Refusal where
  /-- Raised by exec's arm of a command that has no meaning yet, by the command's mnemonic; safe. No arm raises it. -/
  | notModelled (mnemonic : String)
  deriving DecidableEq, Repr

/-! ### Power-on -/

/-- A cleared signal record without a force (R1). -/
def SigRec.absent : SigRec := ⟨0, .absent, Config.maxAge, none⟩

/-- A link after power-on: score 0, ACTIVE, 500 kbit/s (R77, R67); the line is taken to have rested (log 5). -/
def Link.powerOn : Link := ⟨0, .active, .kbit500, .rested⟩

/-- A master port after power-on: OFF (R106). -/
def MasterPort.powerOn : MasterPort :=
  { state := .off, link := .powerOn, turn := .none, cycle := none, cycleTimer := none, overdue := false, overrun := false
    queue := [], detachTimer := none }

/-- Runtime of a master slot outside an active set (R85). -/
def MasterRt.idle : MasterRt := ⟨.disabled, 0, false, 0⟩

/-- Runtime of a festoon slot while no set runs (R121). -/
def FestoonRt.idle : FestoonRt := ⟨.disabled, none, 0⟩

/-- A gate as every reset of the gate states leaves it (R60). -/
def GateRt.closed : GateRt := ⟨.closed, 0, .closed⟩

/-- A channel as R132 and R133 reset it. -/
def ChannelRt.fresh : ChannelRt := ⟨.normal, 0, 0⟩

/-- A digital input as R134 resets it. -/
def InputRt.fresh : InputRt := ⟨false, 0⟩

/-- A monitor as R144 resets it, with nothing handed over. -/
def FeedRt.fresh : FeedRt := ⟨.good, 0, [], []⟩

/-- The trolley terminals at rest: no scan, relays off (R131 to R134, R138). -/
def TrolleyIO.atRest : TrolleyIO :=
  { channels := .fill 16 .fresh, inputs := .fill 16 .fresh, firstSample := true, relays := 0, scanTimer := none
    scanInFlight := false, l2Requests := 0 }

/-- A signal address of base 0, no selector and scale 1 (R20, R42). -/
def SigAddr.zero : SigAddr := ⟨0, none, .x1⟩

/-- Every table after power-on (R6, R82, R105, R83, R120, R20, R34, R40, R41, R42, R130, R143, R174). -/
def Tables.powerOn : Tables :=
  { areas := .fill 8 ⟨false, 0, 0, .spreader, false⟩
    lines := .fill 3 ⟨false, .kbit500, 10, 100⟩
    profiles := .fill 4 ⟨false, 0⟩
    masterSlots := .fill 80 ⟨false, .inbound, 0, 0, 0, 0, 0, 0, 0, false, none⟩
    festoonSlots := .fill 16 ⟨false, .inbound, 0, 0, 0, 0, 0, none⟩
    placements := .fill 384 ⟨.inbound, 0, 0, false, .zero, none, none, 0⟩
    conversions := .fill 64 ⟨false, 0, 0, 0, 0, 0, 0⟩
    gates := .fill 32 ⟨false, 0, 0, false, false, none, 0, none⟩
    sweepPeriod := 2
    terms := .fill 256 ⟨.zero, .eq, false, 0⟩
    channels := .fill 16 ⟨false, false⟩
    inputQ := .fill 16 3
    l0 := ⟨0, 0⟩
    l1 := ⟨0, 0⟩
    l2 := ⟨0, 0⟩
    scanPeriod := 5
    feeds := .fill 2 ⟨false, 0, 0, 0, 0⟩
    watch := .fill 8 ⟨false, 0, 0⟩ }

/-- R152, R153: the part right after power-on or the release of the reset input, with this strap; the queue of commands that wait
is the model's own and is kept. -/
def State.powerOn (strap : BitVec 5) (pending : List Instr) : State :=
  { operating := .config, validated := false, timestamp := 0, resetHeld := false
    tables := .powerOn
    image := .fill 512 .absent
    sp := .powerOn, cp := .powerOn
    attached := none, serials := .fill 4 0, searchTimer := none, hail := .off, unknownCode := none
    masterRt := .fill 80 .idle
    fp := { state := .listening, link := .powerOn, address := strapAddress strap, due := none, restartPending := false
            detachTimer := none, slots := .fill 16 .idle }
    gateRt := .fill 32 .closed, sweepTimer := none
    tio := .atRest
    feedRt := .fill 2 .fresh
    events := [], ovf := false
    watchLast := .fill 8 none
    freeDraws := 0
    pending := pending }

/-- The part right after power-on, its strap read as 0 (log 4), with no command waiting. -/
def State.reset : State := .powerOn 0 []

end Sys2Proof.Machine
end

