-- ==== Sys2Proof/Machine/Ops.lean ====
section
/-! DEFINITION. The operations shared by the commands: lines and sets, the area plan, views and signal addresses, raising events, and
the changes of the signal image with the watch checks they call for. -/

namespace Sys2Proof.Machine

/-! ### Names of lines, feeds and entries -/

/-- The line a master port masters. -/
def masterLine : MasterLine → Line
  | .sp => .sp
  | .cp => .cp

/-- Line code (R75). -/
def lineCode : Line → Nat
  | .sp => 0 | .cp => 1 | .fp => 2

/-- FEED table entry of a supply (R143). -/
def feedIx : Feed → Fin 2
  | .spreader => 0
  | .cab => 1

/-- The supply whose monitor acts on a master port (R143). -/
def feedOf : MasterLine → Feed
  | .sp => .spreader
  | .cp => .cab

/-- The sense channel of a supply (R143). -/
def feedChannel : Feed → Fin 16
  | .spreader => 15
  | .cab => 14

/-- LINE entry of a line (R82). -/
def lineIx : Line → Fin 3
  | .sp => 0 | .cp => 1 | .fp => 2

/-- Owner of the area that a master port's slots write (R7, R24). -/
def areaOf : MasterLine → Owner
  | .sp => .spreader
  | .cp => .cab

/-- SLOT entry of slot `k` of profile `p` (R83). -/
def profileEntry (p : ProfileIx) (k : SlotIx) : MasterIx := ⟨p.val * 16 + k.val, by omega⟩

/-- SLOT entry of cab slot `k` (R83). -/
def cabEntry (k : SlotIx) : MasterIx := ⟨64 + k.val, by omega⟩

/-! ### Parts of the state -/

/-- A master port. -/
def State.port (s : State) : MasterLine → MasterPort
  | .sp => s.sp
  | .cp => s.cp

/-- The state with a master port replaced. -/
def State.setPort (s : State) (l : MasterLine) (p : MasterPort) : State :=
  match l with
  | .sp => { s with sp := p }
  | .cp => { s with cp := p }

/-- The state with a master port changed. -/
def State.onPort (s : State) (l : MasterLine) (f : MasterPort → MasterPort) : State := s.setPort l (f (s.port l))

/-- The link of a line. -/
def State.link (s : State) : Line → Link
  | .sp => s.sp.link
  | .cp => s.cp.link
  | .fp => s.fp.link

/-- The state with the link of a line replaced. -/
def State.setLink (s : State) (l : Line) (k : Link) : State :=
  match l with
  | .sp => { s with sp := { s.sp with link := k } }
  | .cp => { s with cp := { s.cp with link := k } }
  | .fp => { s with fp := { s.fp with link := k } }

/-- The state with the phase of a line replaced. -/
def State.setPhase (s : State) (l : Line) (p : LinePhase) : State := s.setLink l { s.link l with phase := p }

/-- The state with the Festoon Port changed. -/
def State.onFp (s : State) (f : FestoonPort → FestoonPort) : State := { s with fp := f s.fp }

/-- The state with one master slot's runtime changed. -/
def State.onSlot (s : State) (e : MasterIx) (f : MasterRt → MasterRt) : State := { s with masterRt := s.masterRt.modify e f }

/-- The state with one feed monitor's runtime changed. -/
def State.onFeed (s : State) (d : Feed) (f : FeedRt → FeedRt) : State := { s with feedRt := s.feedRt.modify (feedIx d) f }

/-- The runtime of a feed monitor. -/
def State.feed (s : State) (d : Feed) : FeedRt := s.feedRt.get (feedIx d)

/-- LINE entry of a line. -/
def State.lineEntry (s : State) (l : Line) : LineEntry := s.tables.lines.get (lineIx l)

/-- R85: the entry of slot `k` in a port's active set, while it has one: the attached profile's on the Spreader Port, the cab slots
while the Cab Port is CYCLING, HELD or DETACHED. -/
def State.activeEntry (s : State) (l : MasterLine) (k : SlotIx) : Option MasterIx :=
  match l with
  | .sp => s.attached.map fun p => profileEntry p k
  | .cp => match s.cp.state with
    | .cycling | .held | .detached => some (cabEntry k)
    | .off | .search => none

/-- The entries of a port's active set in ascending slot index (R85). -/
def State.activeSet (s : State) (l : MasterLine) : List (SlotIx × MasterIx) :=
  (indices 16).filterMap fun k => (s.activeEntry l k).map fun e => (k, e)

/-! ### The area plan -/

/-- An enabled entry that assigns the index (R6). -/
def AreaEntry.assigns (a : AreaEntry) (i : SigIx) : Bool := a.enabled && a.first ≤ i && i ≤ a.last

/-- The index is assigned by some enabled entry (R6). -/
def Tables.assigned (t : Tables) (i : SigIx) : Bool := t.areas.cells.any fun a => a.assigns i

/-- The index lies in an enabled area of this owner (R6). -/
def Tables.ownedBy (t : Tables) (o : Owner) (i : SigIx) : Bool := t.areas.cells.any fun a => a.assigns i && a.owner == o

/-- The index lies in an enabled area whose forceable flag is set (R16). -/
def Tables.forceable (t : Tables) (i : SigIx) : Bool := t.areas.cells.any fun a => a.assigns i && a.forceable

/-! ### Views and signal addresses -/

/-- R4: the view of a record. -/
def SigRec.view (r : SigRec) : View :=
  match r.force with
  | none => ⟨r.value, .stored r.quality, r.age⟩
  | some v => ⟨v, .forced, r.age⟩

/-- R5: a view of quality GOOD, CLAMPED or FORCED is usable. -/
def ViewQuality.usable : ViewQuality → Bool
  | .forced | .stored .good | .stored .clamped => true
  | .stored (.suspect _) | .stored .stale | .stored .absent => false

/-- The factor of a scale (R8). -/
def Scale.factor : Scale → Nat
  | .x1 => 1 | .x2 => 2 | .x4 => 4 | .x8 => 8 | .x16 => 16

/-- The view of a record of the image. -/
def State.view (s : State) (i : SigIx) : View := (s.image.get i).view

/-- R8: the index a signal address computes: its base, or base + v × scale for a usable selector view of value v within 0 to 15. -/
def State.addressIndex (s : State) (a : SigAddr) : Option Nat :=
  match a.selector with
  | none => some a.base.val
  | some sel =>
    let v := s.view sel
    if v.quality.usable && decide (0 ≤ v.value) && decide (v.value ≤ 15) then some (a.base.val + v.value.toNat * a.scale.factor)
    else none

/-- R9: the record a signal address names, none where the address is unresolved. -/
def State.resolve (s : State) (a : SigAddr) : Option SigIx :=
  match s.addressIndex a with
  | none => none
  | some n => if h : n < 512 then (if s.tables.assigned ⟨n, h⟩ then some ⟨n, h⟩ else none) else none

/-- The view an unresolved address yields (R9). -/
def View.unresolved : View := ⟨0, .stored .absent, Config.maxAge⟩

/-- R9: the view a signal address yields. -/
def State.read (s : State) (a : SigAddr) : View :=
  match s.resolve a with
  | none => .unresolved
  | some i => s.view i

/-! ### Events -/

/-- R171, R172: a raised event enters the queue as the newest record, or is discarded and sets OVF. -/
def State.raise (e : Event) (s : State) : State :=
  if s.events.length < Config.queueSize then { s with events := s.events ++ [⟨e, s.timestamp⟩] } else { s with ovf := true }

/-- The events are raised one after the other. -/
def State.raiseAll (es : List Event) (s : State) : State := es.foldl (fun s e => s.raise e) s

/-! ### The watch list -/

/-- R175: the condition under which a check reports. -/
def watchReports (last : Option (Int × ViewQuality)) (v : View) (deadband : Nat) : Bool :=
  match last with
  | none => true
  | some (value, quality) => quality != v.quality || decide (deadband < (v.value - value).natAbs)

/-- R175, R176: the check of one watch entry against the view of its signal. -/
def State.checkEntry (w : Fin 8) (s : State) : State :=
  let cfg := s.tables.watch.get w
  let v := s.view cfg.signal
  if watchReports (s.watchLast.get w) v cfg.deadband then
    if s.events.length < Config.queueSize then
      { s.raise (.watch w v.quality v.value) with watchLast := s.watchLast.set w (some (v.value, v.quality)) }
    else s.raise (.watch w v.quality v.value)
  else s

/-- R175, R176: the checks of every enabled entry whose signal an event touched, in ascending entry index. -/
def State.watchChecks (touched : SigIx → Bool) (s : State) : State :=
  (indices 8).foldl (fun s w =>
    let cfg := s.tables.watch.get w
    if cfg.enabled && touched cfg.signal then s.checkEntry w else s) s

/-! ### Changes of the image within one event -/

/-- A state in the midst of an event, with the records the event has touched so far (R175). -/
structure Work where
  st : State
  touched : SigIx → Bool

/-- The beginning of an event: nothing touched. -/
def State.work (s : State) : Work := ⟨s, fun _ => false⟩

/-- A change of the state that touches no record. -/
def Work.on (f : State → State) (w : Work) : Work := { w with st := f w.st }

/-- A change of every record that a condition selects; each selected record is touched. -/
def Work.change (sel : SigIx → SigRec → Bool) (f : SigRec → SigRec) (w : Work) : Work :=
  { st := { w.st with image := w.st.image.mapIdx fun i r => if sel i r then f r else r }
    touched := fun i => w.touched i || sel i (w.st.image.get i) }

/-- A change of one record, which is touched. -/
def Work.changeAt (i : SigIx) (f : SigRec → SigRec) (w : Work) : Work :=
  { st := { w.st with image := w.st.image.modify i f }
    touched := fun j => w.touched j || decide (j = i) }

/-- The end of an event: in RUN the watch checks are taken, after every other event it raised (R175, R176). -/
def Work.close (w : Work) : State :=
  match w.st.operating with
  | .run => w.st.watchChecks w.touched
  | .config => w.st

/-- R10, R14, R15: a source write of a value, with age 0; the force part is kept. -/
def SigRec.written (v : Int) (q : Quality) (r : SigRec) : SigRec := { r with value := v, quality := q, age := 0 }

/-- A change of stored quality alone: value, age and force part are kept (R2, R11, R12). -/
def SigRec.marked (q : Quality) (r : SigRec) : SigRec := { r with quality := q }

/-- R18: a clearing; the force part is kept. -/
def SigRec.cleared (r : SigRec) : SigRec := { r with value := 0, quality := .absent, age := Config.maxAge }

/-- R11: the signals of a slot entering LOST go STALE if GOOD, CLAMPED or SUSPECT. -/
def Quality.goesStale : Quality → Bool
  | .good | .clamped | .suspect _ => true
  | .stale | .absent => false

/-- R11: the given signals go STALE. -/
def Work.stale (sigs : List SigIx) (w : Work) : Work :=
  w.change (fun i r => r.quality.goesStale && sigs.contains i) (SigRec.marked .stale)

/-- R12: every non-ABSENT signal of an owner's area takes SUSPECT(FEED). -/
def Work.suspectFeed (o : Owner) (w : Work) : Work :=
  w.change (fun i r => r.quality != .absent && w.st.tables.ownedBy o i) (SigRec.marked (.suspect .feed))

/-- R13: an owner's area is cleared; the records that change are touched (log 12). -/
def Work.clearArea (o : Owner) (w : Work) : Work :=
  w.change (fun i r => r.cleared != r && w.st.tables.ownedBy o i) SigRec.cleared

/-- R18: every record outside the PANEL areas is cleared; no watch check is taken (R175). -/
def State.clearImage (s : State) : State :=
  { s with image := s.image.mapIdx fun i r => if s.tables.ownedBy .panel i then r else r.cleared }

/-- R18: every force part is removed without a watch check (R175). -/
def State.dropForces (s : State) : State := { s with image := s.image.map fun r => { r with force := none } }

/-- Number of signals carrying a force (R16). -/
def State.forceCount (s : State) : Nat := s.image.cells.countP fun r => r.force.isSome

end Sys2Proof.Machine
end

