-- ==== Sys2Proof/Machine/Flags.lean ====
section
/-! DEFINITION. The flags a line keeps: error score and health (R77, R78), and the ATTN and OVF flags of festoon frames (R128). -/

namespace Sys2Proof.Machine

/-- ATTN: the event queue holds at least one record (R128). -/
def State.attn (s : State) : Bool := !s.events.isEmpty

/-- R77, R78: a good frame subtracts 1 from the score; a DEGRADED port at 63 or less returns to ACTIVE with LINE_RECOVERED. -/
def State.scoreGood (l : Line) (s : State) : State :=
  let k := s.link l
  let score := k.score - 1
  match k.health with
  | .degraded =>
    if score ≤ Config.recoveredScore then
      (s.setLink l { k with score := score, health := .active }).raise (.lineRecovered l score)
    else s.setLink l { k with score := score }
  | .active => s.setLink l { k with score := score }

/-- R77: a frame error brings the score to 248 or more. -/
def State.overflows (l : Line) (s : State) : Bool := Config.overflowScore ≤ (s.link l).score + 8

/-- R77, R78: a frame error without overflow adds 8; an ACTIVE port at 96 or more becomes DEGRADED with LINE_DEGRADED. -/
def State.scoreError (l : Line) (s : State) : State :=
  let k := s.link l
  let score := k.score + 8
  match k.health with
  | .active =>
    if Config.degradedScore ≤ score then
      (s.setLink l { k with score := score, health := .degraded }).raise (.lineDegraded l score)
    else s.setLink l { k with score := score }
  | .degraded => s.setLink l { k with score := score }

/-- R77: the states in which a port judges and scores receptions. -/
def State.scores (s : State) : Line → Bool
  | .sp => match s.sp.state with
    | .search | .cycling => true
    | .off | .held | .detached => false
  | .cp => match s.cp.state with
    | .cycling => true
    | .off | .search | .held | .detached => false
  | .fp => match s.fp.state with
    | .listening => true
    | .detached => false

end Sys2Proof.Machine
end

