-- ==== Sys2Proof/Machine/Placements.lean ====
section
/-! DEFINITION. The Placement Engine: conversion arithmetic (R35 to R39), applying an arriving payload (R27 to R29), building an
outgoing payload (R30 to R33). -/

namespace Sys2Proof.Machine

/-! ### Conversion -/

/-- R36: p divided by 2^s, rounded to nearest, halves upward. -/
def roundShift (p : Int) (s : Nat) : Int := if s = 0 then p else (p + 2 ^ (s - 1)) / 2 ^ s

/-- R35, R36: the result before saturation, y = q + c. -/
def Conversion.raw (c : Conversion) (r : Int) : Int := roundShift ((r - c.o) * c.g) c.s + c.c

/-- R37: the result, and whether it saturated. -/
def Conversion.apply (c : Conversion) (r : Int) : Int × Bool :=
  let y := c.raw r
  (clampInt c.lo c.hi y, decide (y < c.lo) || decide (c.hi < y))

/-! ### Runs of placements -/

/-- R21: the `count` placements beginning at `first`, in ascending index (a number past the table has no record). -/
def Tables.run (t : Tables) (first count : Nat) : List Placement :=
  (List.range count).filterMap fun k => t.placements.get? (first + k)

/-- The placements of a master slot (R21). -/
def Tables.slotRun (t : Tables) (m : MasterSlot) : List Placement := t.run m.first m.count

/-- The placements of a festoon slot (R21). -/
def Tables.festoonRun (t : Tables) (f : FestoonSlot) : List Placement := t.run f.first f.count

/-- The placements of an L slot (R21, R130). -/
def Tables.lRun (t : Tables) (l : LSlot) : List Placement := t.run l.first l.count

/-- The signals the IN placements of a run write (R10). -/
def writtenSignals (run : List Placement) : List SigIx :=
  (run.filter fun p => p.direction == .inbound).map fun p => p.addr.base

/-! ### Applying -/

/-- R28, R38: the number an IN placement writes from a payload, and its quality. -/
def Tables.inValue (t : Tables) (p : Placement) (payload : Nat) : Int × Quality :=
  let r := fieldNumber p.signed p.width (extractField payload p.offset p.width)
  match p.conversion with
  | some c => let y := (t.conversions.get c).apply r
              (y.1, if y.2 then .clamped else .good)
  | none => (clampInt (-32768) 32767 r, if decide (r < -32768) || decide (32767 < r) then .clamped else .good)

/-- R28: the write of one IN placement whose field was received. -/
def Work.writeField (p : Placement) (payload : Nat) (w : Work) : Work :=
  let y := w.st.tables.inValue p payload
  w.changeAt p.addr.base (SigRec.written y.1 y.2)

/-- R28, R29: one IN placement applied to a payload of `len` bytes. -/
def Work.applyOne (payload len : Nat) (w : Work) (p : Placement) : Work :=
  if p.offset + p.width ≤ 8 * len then w.writeField p payload
  else w.changeAt p.addr.base (SigRec.marked (.suspect .short))

/-- R27: the IN placements of a run applied to a received payload, in ascending index. -/
def Work.applyRun (run : List Placement) (bytes : List Byte) (w : Work) : Work :=
  (run.filter fun p => p.direction == .inbound).foldl (Work.applyOne (leNat bytes) bytes.length) w

/-! ### Building -/

/-- R31: the gate of an OUT placement, if it names one, is OPEN. -/
def State.gatePasses (s : State) (p : Placement) : Bool :=
  match p.gate with
  | none => true
  | some g => (s.gateRt.get g).state == .opened

/-- R33, R39: the number an OUT placement sends for a usable view value. -/
def Tables.outValue (t : Tables) (p : Placement) (v : Int) : Int :=
  match p.conversion with
  | some c => ((t.conversions.get c).apply v).1
  | none => v

/-- R31 to R33: the pattern an OUT field takes: its safe value unless the gate passes and the view is usable. -/
def State.fieldOf (s : State) (p : Placement) : Nat :=
  let v := s.read p.addr
  if s.gatePasses p && v.quality.usable then
    fieldPattern p.width (fitNumber p.signed p.width (s.tables.outValue p v.value))
  else p.safe.toNat

/-- R30: the payload of a run as a number, every bit 0 at the start. -/
def State.buildNat (s : State) (run : List Placement) : Nat :=
  (run.filter fun p => p.direction == .outbound).foldl (fun n p => insertField n p.offset p.width (s.fieldOf p)) 0

/-- R30: the built payload of a declared length. -/
def State.build (s : State) (run : List Placement) (len : Nat) : List Byte := leBytes len (s.buildNat run)

end Sys2Proof.Machine
end

