-- ==== Sys2Proof/Machine/Ports.lean ====
section
/-! DEFINITION. The engine of the two master ports: slot sets, cycles, turns, chains, misses, loss, abandonment, search, attachment,
detachment and hold (R79, R80, R85 to R100, R105 to R117, R149, R150). -/

namespace Sys2Proof.Machine

/-! ### Slots and visits -/

/-- The record of an entry. -/
def State.slotRec (s : State) (e : MasterIx) : MasterSlot := s.tables.masterSlots.get e

/-- R87: the visit of a slot in the cycle is a turn, of this kind; none where it is passed over or DISABLED. -/
def State.visit (s : State) (l : MasterLine) (k : SlotIx) : Option TurnKind :=
  match s.activeEntry l k with
  | none => none
  | some e =>
    let m := s.slotRec e
    let rt := s.masterRt.get e
    if rt.status == .disabled then none
    else match m.direction with
      | .inbound => some .regularIn
      | .outbound => if m.once && !rt.armed then none else some .regularOut

/-- R87: the first slot at or after a place whose visit is a turn, with the kind of that turn. -/
def State.nextVisit (s : State) (l : MasterLine) (place : Nat) : Option (SlotIx × TurnKind) :=
  (indices 16).findSome? fun k => if place ≤ k.val then (s.visit l k).map fun t => (k, t) else none

/-- R87, R95: a cycle begins with no slot visited, and the timer restarts. -/
def State.openCycle (l : MasterLine) (s : State) : State :=
  s.onPort l fun p => { p with cycle := some 0, cycleTimer := some (s.lineEntry (masterLine l)).cyclePeriod, overdue := false }

/-- R87, R95: the last regular turn has ended: the cycle ends on time, or an overdue one is followed at once by the next. -/
def State.endCycle (l : MasterLine) (s : State) : State :=
  if (s.port l).overdue then s.openCycle l else s.onPort l fun p => { p with cycle := none, overrun := false }

/-- R87: no slot that the cycle in progress has yet to visit would take a turn. -/
def State.cycleDone (s : State) (l : MasterLine) (place : Nat) : Bool := (s.nextVisit l place).isNone

/-- R87, R95, R98: at a turn boundary a cycle with no turn left ends. Where a chained turn is served there, the first visit of a cycle
waits behind it, so a cycle that has visited no slot does not end (log 11). -/
def State.settleCycle (l : MasterLine) (chained : Bool) (s : State) : State :=
  match (s.port l).cycle with
  | none => s
  | some place => if s.cycleDone l place && !(chained && place == 0) then s.endCycle l else s

/-- R87: the cycle in progress visits its slots up to the next that takes a turn, which is due; slots that take none are passed over at
once, and a cycle that finds none ends. -/
def State.takeVisit (l : MasterLine) (s : State) : State :=
  match (s.port l).cycle with
  | none => s
  | some place =>
    match s.nextVisit l place with
    | some (k, t) => s.onPort l fun p => { p with turn := .due t k, cycle := some (k.val + 1) }
    | none => s.onPort l fun p => { p with cycle := none, overrun := false }

/-- R98: entries at the front of the queue whose slot is a ONCE slot that is not armed are given no turn. -/
def State.servable (s : State) (l : MasterLine) (k : SlotIx) : Bool :=
  match s.activeEntry l k with
  | none => true
  | some e => !((s.slotRec e).once && !(s.masterRt.get e).armed)

/-- R98: a turn boundary: the oldest servable entry of the queue takes a chained turn, which does not move the cycle's place (R87), or
else the next regular turn is taken. -/
def State.atBoundary (l : MasterLine) (s : State) : State :=
  match (s.port l).queue.dropWhile (fun k => !s.servable l k) with
  | k :: rest => (s.settleCycle l true).onPort l fun p => { p with queue := rest, turn := .due .chainedOut k }
  | [] => ((s.onPort l fun p => { p with turn := .none, queue := [] }).settleCycle l false).takeVisit l

/-- R87, R98: a cycle begins at a timer expiry or on entering CYCLING. Its first visit is made at once unless a chained turn is in
flight or queued: it then waits at the boundary behind them, with no slot visited. -/
def State.startCycle (l : MasterLine) (s : State) : State :=
  let s1 := s.openCycle l
  if (s1.port l).turn = .none ∧ (s1.port l).queue = [] then s1.takeVisit l else s1

/-! ### Sets and states of a port -/

/-- R85: the runtime of a slot whose set becomes active: IN slots AWAITING, OUT slots LIVE. -/
def startedSlot (m : MasterSlot) (rt : MasterRt) : MasterRt :=
  if m.enabled then
    match m.direction with
    | .inbound => { rt with status := .awaiting, misses := 0, armed := false }
    | .outbound => { rt with status := .live, misses := 0, armed := false }
  else rt

/-- R86: the runtime of a slot when its Cab Port returns to CYCLING; the ONCE armed flag is kept. -/
def resumedSlot (m : MasterSlot) (rt : MasterRt) : MasterRt :=
  if m.enabled then
    match m.direction with
    | .inbound => { rt with status := .awaiting, misses := 0 }
    | .outbound => { rt with status := .live }
  else rt

/-- The entry belongs to profile `p` (R83). -/
def inProfile (p : ProfileIx) (e : MasterIx) : Bool := e.val / 16 == p.val

/-- The entry is a cab slot (R83). -/
def isCabEntry (e : MasterIx) : Bool := 64 ≤ e.val

/-- The runtime of the entries that a condition selects, changed. -/
def State.onSlots (s : State) (sel : MasterIx → Bool) (f : MasterSlot → MasterRt → MasterRt) : State :=
  { s with masterRt := s.masterRt.mapIdx fun e rt => if sel e then f (s.slotRec e) rt else rt }

/-- R99: the phase of a line whose port stops driving or listening to it: the receiver needs a new rest (log 27). -/
def MasterPort.cut (p : MasterPort) : MasterPort := { p with link := { p.link with phase := .ignoring } }

/-- R86, R99: a master port leaves CYCLING for a state: timer stopped, turn in flight abandoned, queue emptied, cycle ended. -/
def MasterPort.leave (st : PortState) (p : MasterPort) : MasterPort :=
  { p with state := st, turn := .none, cycle := none, cycleTimer := none, overdue := false, queue := [] }

/-- R86: a master port enters CYCLING and its first cycle begins at once. -/
def State.enterCycling (l : MasterLine) (s : State) : State :=
  (s.onPort l fun p => { p.leave .cycling with overrun := false, detachTimer := none }).startCycle l

/-- R107: the Spreader Port enters SEARCH: the unknown-code register is emptied and the first HAIL is due. -/
def State.enterSearch (s : State) : State :=
  { s.onPort .sp (fun p => { p.leave .search with detachTimer := none }) with
    unknownCode := none, hail := .firstDue, searchTimer := none }

/-- R85: an attachment ends: every slot of the profile is DISABLED with miss count 0, disarmed, timestamp 0. -/
def State.dropAttachment (s : State) : State :=
  match s.attached with
  | none => s
  | some p => { s.onSlots (inProfile p) (fun _ _ => .idle) with attached := none }

/-- The search of the Spreader Port stops: timer stopped, window closed (R107, R112). -/
def State.stopSearch (s : State) : State := { s with searchTimer := none, hail := .off }

/-! ### Misses, loss and the end of an attachment -/

/-- R92: the runtime of a slot after a miss. -/
def missedSlot (limit : Nat) (rt : MasterRt) : MasterRt :=
  match rt.status with
  | .live => if limit ≤ 1 then { rt with status := .lost, misses := limit } else { rt with status := .missing, misses := 1 }
  | .missing =>
    if limit ≤ rt.misses + 1 then { rt with status := .lost, misses := limit } else { rt with misses := rt.misses + 1 }
  | .awaiting =>
    if limit ≤ rt.misses + 1 then { rt with status := .lost, misses := limit } else { rt with misses := rt.misses + 1 }
  | .lost | .disabled => rt

/-- An enabled IN slot of a set. -/
def MasterSlot.polled (m : MasterSlot) : Bool := m.enabled && m.direction == .inbound

/-- R113: every enabled IN slot of the attached profile is LOST. -/
def State.allLost (s : State) : Bool :=
  (s.activeSet .sp).all fun ke => !(s.slotRec ke.2).polled || (s.masterRt.get ke.2).status == .lost

/-- R113: the attachment ends because every IN slot is LOST: SPREADER_DETACHED with cause 1, the area cleared, SEARCH entered. -/
def Work.endAttachment (p : ProfileIx) (w : Work) : Work :=
  ((w.on fun s => s.dropAttachment.raise (.spreaderDetached p 1)).clearArea .spreader).on State.enterSearch

/-- R113: after a slot has entered LOST: an attachment whose every IN slot is LOST ends. -/
def Work.endIfAllLost (l : MasterLine) (w : Work) : Work :=
  match l, w.st.attached with
  | .sp, some p => if w.st.allLost then w.endAttachment p else w
  | .sp, none | .cp, _ => w

/-- R92, R93, R113: the turn of slot `k` ends in a miss. -/
def Work.miss (l : MasterLine) (k : SlotIx) (w : Work) : Work :=
  match w.st.activeEntry l k with
  | none => w
  | some e =>
    let m := w.st.slotRec e
    let rt := missedSlot m.missLimit (w.st.masterRt.get e)
    let wasLost := (w.st.masterRt.get e).status == .lost
    let w1 := w.on fun s => (s.onSlot e fun _ => rt).onPort l fun p => { p with turn := .missed k }
    if rt.status == .lost && !wasLost then
      ((w1.on (State.raise (.slotLost (masterLine l) k))).stale (writtenSignals (w.st.tables.slotRun m))).endIfAllLost l
    else w1

/-- R79, R92: a slot made LOST by detachment has its count at its limit. -/
def lostSlot (limit : Nat) (rt : MasterRt) : MasterRt := { rt with status := .lost, misses := limit }

/-- R79: one slot of a set at its port's detachment: an enabled IN slot that is not LOST enters LOST, with SLOT_LOST and its signals
STALE. -/
def Work.detachSlot (l : MasterLine) (w : Work) (ke : SlotIx × MasterIx) : Work :=
  let m := w.st.slotRec ke.2
  if m.polled && (w.st.masterRt.get ke.2).status != .lost then
    (w.on fun s => (s.onSlot ke.2 (lostSlot m.missLimit)).raise (.slotLost (masterLine l) ke.1)).stale
      (writtenSignals (w.st.tables.slotRun m))
  else w

/-- R79, R114: the end of an attachment by detachment: SPREADER_DETACHED with cause 2 and the area cleared. -/
def Work.detachAttachment (w : Work) : Work :=
  match w.st.attached with
  | none => w
  | some p => (w.on fun s => s.dropAttachment.raise (.spreaderDetached p 2)).clearArea .spreader

/-- R77, R78: the overflow of a score: score 0, ACTIVE, and the detach timer's line phase. -/
def Link.overflowed (k : Link) : Link := { k with score := 0, health := .active, phase := .ignoring }

/-- R79: a master port enters DETACHED. -/
def Work.detachMaster (l : MasterLine) (w : Work) : Work :=
  let w1 := w.on fun s => (s.onPort l fun p =>
    { p.leave .detached with link := p.link.overflowed, detachTimer := some Config.detachMs }).raise (.lineDetached (masterLine l))
  let w2 := (w1.st.activeSet l).foldl (Work.detachSlot l) w1
  match l with
  | .cp => w2
  | .sp => (w2.on State.stopSearch).detachAttachment

/-- R81: the Festoon Port enters DETACHED. -/
def State.detachFestoon (s : State) : State :=
  (s.onFp fun p => { p with state := .detached, link := p.link.overflowed, detachTimer := some Config.detachMs, due := none }).raise
    (.lineDetached .fp)

/-! ### Attaching -/

/-- R109: the enabled profile whose type code equals a reply's. -/
def State.matchProfile (s : State) (code : BitVec 16) : Option ProfileIx :=
  (indices 4).find? fun p => (s.tables.profiles.get p).enabled && (s.tables.profiles.get p).typeCode == code

/-- R110: profile `p` is attached with a serial number. -/
def State.attach (p : ProfileIx) (code : BitVec 16) (serial : BitVec 32) (s : State) : State :=
  let s1 := { s with attached := some p, serials := s.serials.set p serial }
  ((s1.onSlots (inProfile p) startedSlot).raise (.spreaderAttached p code)).stopSearch.enterCycling .sp

/-- R111: a reply whose code matches no enabled profile. -/
def State.unknownReply (code : BitVec 16) (s : State) : State :=
  let s1 := if s.unknownCode = some code then s else s.raise (.spreaderUnknown code)
  { s1 with unknownCode := some code, hail := .waiting }

/-! ### Chain requests -/

/-- R97: a master port takes a chain request; a slot that is no OUT slot is not a chain target (R96). -/
def State.requestTurn (l : MasterLine) (k : SlotIx) (s : State) : State :=
  match (s.port l).state with
  | .off | .search | .held | .detached => s
  | .cycling =>
    match s.activeEntry l k with
    | none => s
    | some e =>
      let m := s.slotRec e
      let rt := s.masterRt.get e
      if rt.status == .disabled || m.direction == .inbound then s
      else if m.once && !rt.armed then s
      else if (s.port l).queue.contains k then s
      else s.onPort l fun p => { p with queue := p.queue ++ [k] }

/-- R96: a chain request is handed to its target. -/
def State.requestChain (t : ChainTarget) (s : State) : State :=
  match t with
  | .sp k => s.requestTurn .sp k
  | .cp k => s.requestTurn .cp k
  | .l => { s with tio := { s.tio with l2Requests := s.tio.l2Requests + 1 } }

/-- A chain request if a chain target is given. -/
def State.requestIf (t : Option ChainTarget) (s : State) : State :=
  match t with
  | none => s
  | some c => s.requestChain c

/-! ### Hold and release -/

/-- R115: an attachment that a hold ends: SPREADER_DETACHED with cause 3. -/
def Work.holdAttachment (w : Work) : Work :=
  match w.st.attached with
  | none => w
  | some p => w.on fun s => s.dropAttachment.raise (.spreaderDetached p 3)

/-- R115, R149: a master port enters HELD: turn abandoned, queue emptied, an attachment ended with cause 3, its area SUSPECT(FEED). -/
def Work.hold (l : MasterLine) (w : Work) : Work :=
  match l with
  | .cp => (w.on fun s => s.onPort .cp fun p => { (p.leave .held).cut with detachTimer := none }).suspectFeed .cab
  | .sp =>
    (w.on fun s => (s.onPort .sp fun p => { (p.leave .held).cut with detachTimer := none }).stopSearch).holdAttachment.suspectFeed
      .spreader

/-- R86: the Cab Port returns to CYCLING from HELD or DETACHED. -/
def State.resumeCab (s : State) : State := (s.onSlots isCabEntry resumedSlot).enterCycling .cp

/-! ### Sending -/

/-- The DATA frame of an OUT turn (R88). -/
def State.outFrame (s : State) (e : MasterIx) : Frame :=
  let m := s.slotRec e
  { address := m.node, kind := .data, tag := m.tag, attn := false, ovf := false
    payload := s.build (s.tables.slotRun m) m.length }

/-- The POLL of an IN turn (R89). -/
def State.pollFrame (s : State) (e : MasterIx) : Frame :=
  { address := (s.slotRec e).node, kind := .poll, tag := (s.slotRec e).tag, attn := false, ovf := false, payload := [] }

/-- The HAIL frame (R108). -/
def hailFrame : Frame := { address := broadcast, kind := .hail, tag := 0, attn := false, ovf := false, payload := [] }

/-- A line begins to carry a frame of the part, at the rate in effect. -/
def State.send (l : Line) (f : Frame) (s : State) : State := s.setPhase l (.sending f (s.link l).rate)

end Sys2Proof.Machine
end

