-- ==== Sys2Proof/Machine/Modes.lean ====
section
/-! DEFINITION. Mode Control: entering CONFIG (R161), entering RUN (R160), the warm restart (R163), and the reset of each block's runtime
that they share. -/

namespace Sys2Proof.Machine

/-- R117, R86: a master port enters OFF. -/
def MasterPort.toOff (p : MasterPort) : MasterPort := { (p.leave .off).cut with detachTimer := none }

/-- R86, R117: both master ports enter OFF and the search stops. -/
def State.portsOff (s : State) : State :=
  { s with sp := s.sp.toOff, cp := s.cp.toOff, attached := none, searchTimer := none, hail := .off
           masterRt := .fill 80 .idle }

/-- R121: a festoon slot when the set stops. -/
def FestoonPort.stopSet (p : FestoonPort) : FestoonPort := { p with slots := .fill 16 .idle }

/-- R127: a due DATA answer is discarded; a due reply is kept. -/
def FestoonPort.dropData (p : FestoonPort) : FestoonPort :=
  match p.due with
  | some (.data _) => { p with due := none }
  | some (.reply _ _ _) | none => p

/-- R121: a festoon slot when the set starts: its timestamp is kept. -/
def startedFestoon (f : FestoonSlot) (rt : FestoonRt) : FestoonRt :=
  if f.enabled then
    match f.direction with
    | .inbound => { rt with status := .awaiting, staleTimer := some f.staleLimit }
    | .outbound => { rt with status := .live, staleTimer := none }
  else { rt with status := .disabled, staleTimer := none }

/-- R60: every gate CLOSED, count 0, saved state CLOSED. -/
def State.closeGates (s : State) : State := { s with gateRt := .fill 32 .closed }

/-- R144: both monitors GOOD with count 0, nothing left to take. -/
def State.resetFeeds (s : State) : State := { s with feedRt := .fill 2 .fresh }

/-- R161: the entry into CONFIG, as one event. -/
def State.toConfig (s : State) : State :=
  let s1 := ({ s with operating := .config, sweepTimer := none, tio := .atRest }).portsOff.closeGates.resetFeeds
  ((s1.onFp fun p => p.stopSet.dropData).clearImage).dropForces

/-- R67: the rates of the LINE entries take effect. -/
def State.applyRates (s : State) : State :=
  { s with sp := { s.sp with link := { s.sp.link with rate := (s.lineEntry .sp).rate } }
           cp := { s.cp with link := { s.cp.link with rate := (s.lineEntry .cp).rate } }
           fp := { s.fp with link := { s.fp.link with rate := (s.lineEntry .fp).rate } } }

/-- R86: the Cab Port starts if its LINE entry is enabled. -/
def State.startCab (s : State) : State :=
  if (s.lineEntry .cp).enabled then (s.onSlots isCabEntry startedSlot).enterCycling .cp else s

/-- R86, R106: the Spreader Port starts in SEARCH if its LINE entry is enabled. -/
def State.startSpreader (s : State) : State := if (s.lineEntry .sp).enabled then s.enterSearch else s

/-- R121: the festoon set starts. -/
def State.startFestoon (s : State) : State :=
  s.onFp fun p => { p with slots := p.slots.mapIdx fun k rt => startedFestoon (s.tables.festoonSlots.get k) rt }

/-- R131 to R134, R138: the terminals at the entry into RUN: a first scan in flight, relays off. -/
def State.startScan (s : State) : State :=
  { s with tio := { TrolleyIO.atRest with scanTimer := some s.tables.scanPeriod, scanInFlight := true } }

/-- R160: the entry into RUN, as one event. -/
def State.toRun (s : State) : State :=
  let s1 := ({ s with operating := .run, sweepTimer := some s.tables.sweepPeriod, watchLast := .fill 8 none }).clearImage
  s1.portsOff.closeGates.resetFeeds.applyRates.startScan.startFestoon.startCab.startSpreader

/-- A link at a warm restart: score 0, ACTIVE (R77, R163). -/
def Link.restarted (k : Link) : Link := { k with score := 0, health := .active }

/-- R163 step 1: the event queue, OVF, the timestamp counter and the scores. -/
def State.restartCounters (s : State) : State :=
  { s with events := [], ovf := false, timestamp := 0
           sp := { s.sp with link := s.sp.link.restarted }
           cp := { s.cp with link := s.cp.link.restarted }
           fp := { s.fp with link := s.fp.link.restarted, restartPending := false } }

/-- R163: the warm restart, as one event. -/
def State.warmRestart (s : State) : State :=
  let s1 := s.restartCounters.toConfig
  if s1.validated then s1.toRun else s1

/-- R153: while the reset input is asserted no line is driven, every relay is off and nothing is in flight. -/
def State.holdReset (s : State) : State :=
  { s with resetHeld := true
           sp := { s.sp.cut with turn := .none }
           cp := { s.cp.cut with turn := .none }
           hail := .off
           fp := { s.fp with link := { s.fp.link with phase := .ignoring }, due := none, restartPending := false }
           tio := { s.tio with relays := 0, scanInFlight := false, l2Requests := 0 }
           feedRt := s.feedRt.map fun f => { f with handovers := [], orders := [] } }

end Sys2Proof.Machine
end

