-- ==== Sys2Proof/WellFormed.lean ====
section
/-! DEFINITION. Which commands are terms that a real sender can send: the checks that the spec makes of a frame's form alone, with no
reference to the state. -/

namespace Sys2Proof
open Machine

/-- A management command code of R72. -/
def knownCommand (code : Byte) : Bool := 1 ≤ code.toNat && code.toNat ≤ 13

/-- A management request fits a 48-byte payload beside its command code (R65, R72). -/
def requestFits (req : List Byte) : Bool := req.length ≤ 47

/-- The payload of an unknown command: empty, or opened by a code that R72 does not list. -/
def unknownPayload (payload : List Byte) : Bool :=
  payload.length ≤ 48 && (match payload with | [] => true | c :: _ => !knownCommand c)

/-- The form of a command: FRAME_ERROR carries a reception that fails a step of R69; a frame row carries a frame within its kind's
limit and of the row's kind (R65, R71, R91, R109, R123, R125); a management request fits its frame; UNKNOWN_COMMAND carries no known
code (R72). -/
def Instr.wellFormed : Instr → Bool
  | .frameError _ chars _ => isFrameError chars
  | .strayFrame _ f _ => frameWithinLimit f
  | .masterResponseAccepted _ f => f.kind == .data && frameWithinLimit f
  | .hailReplyTaken f => f.kind == .hailReply && f.payload.length == 6
  | .festoonDataAccepted f => f.kind == .data && frameWithinLimit f
  | .festoonPoll f => f.kind == .poll && frameWithinLimit f
  | .unknownCommand _ payload => unknownPayload payload
  | .status _ req | .enterConfig _ req | .enterRun _ req | .restart _ req | .readTable _ req | .writeTable _ req
  | .readSignals _ req | .writeSignal _ req | .force _ req | .release _ req | .releaseAll _ req | .sendOnce _ req
  | .readEvents _ req => requestFits req
  | .powerOn _ | .resetInputAssert | .resetInputRelease _ | .ageTimerExpiry | .warmRestart | .festoonReceptionStart
  | .festoonDataAnswer | .mgmtReplyStart | .cycleTimerExpiry _ | .outTurnStart _ | .outFrameEnd _ | .turnBoundary _ | .inTurn _
  | .pollEnd _ | .responseWindowExpiry _ | .firstHail | .searchTimerExpiry | .hailEnd | .searchWindowExpiry
  | .detachTimerExpiry _ | .staleTimerExpiry _ | .sweep | .l2ChainBuild | .scanTimerExpiry | .scanCompletion _ _
  | .feedReading _ | .portHold _ | .portRelease _ | .lineRest _ => true

end Sys2Proof
end

