-- ==== Sys2Proof/Machine/Receive.lean ====
section
/-! DEFINITION. Receptions: when a port receives, what kind of event a good frame is for it (R89, R108, R122), and the events that begin,
end or fail a reception (R69, R77, R90, R127). -/

namespace Sys2Proof.Machine

/-- The answer of a command: a command whose event cannot occur in the state, or that comes while the reset input is asserted, leaves
the state as it is (log 1, R153). -/
def State.occurs (s : State) (possible : Bool) (next : State) : Host.Outcome State Fault Refusal :=
  .next (if !s.resetHeld && possible then next else s)

/-! ### Receiving -/

/-- A master port receives: it is in a scoring state and its line has rested (R69, R77). -/
def State.masterReceives (s : State) (l : MasterLine) : Bool :=
  s.scores (masterLine l) && (s.port l).link.phase == .rested

/-- The Festoon Port receives: it is LISTENING and its line has rested or a reception is under way (R119, R127). -/
def State.festoonReceives (s : State) : Bool :=
  s.scores .fp && (s.fp.link.phase == .rested || s.fp.link.phase == .receiving)

/-- R69: a reception has ended; the port ignores its line until the next rest. -/
def State.judged (l : Line) (s : State) : State := s.setPhase l .ignoring

/-- R127, R162: a reception begins on the festoon line: a due answer not yet begun is discarded, and a pending warm restart takes
effect. A reception already under way has begun before. -/
def State.beginReception (s : State) : State :=
  match s.fp.link.phase with
  | .rested =>
    let s1 := s.onFp fun p => { p with due := none }
    (if s1.fp.restartPending then s1.warmRestart else s1).setPhase .fp .receiving
  | .receiving | .ignoring | .sending _ _ => s

/-! ### What a good frame is -/

/-- R89: the slot whose window is open and whose response the frame is. -/
def State.responseFor (s : State) (l : MasterLine) (f : Frame) : Option (SlotIx × MasterIx) :=
  match (s.port l).turn with
  | .window k =>
    match s.activeEntry l k with
    | some e =>
      if f.kind == .data && f.address == (s.slotRec e).node && f.tag == (s.slotRec e).tag then some (k, e) else none
    | none => none
  | .none | .due _ _ | .outFrame _ | .outGap _ | .poll _ | .inGap _ | .missed _ => none

/-- R108: the frame is a valid reply in an open search window. -/
def State.validReply (s : State) (f : Frame) : Bool :=
  s.sp.state == .search && s.hail == .window && f.kind == .hailReply && f.payload.length == 6

/-- R122, R123: the enabled festoon IN slot a DATA frame is accepted for, in RUN. -/
def State.festoonDataSlot (s : State) (f : Frame) : Option SlotIx :=
  if s.operating == .run && f.kind == .data && (f.address == s.fp.address || f.address == broadcast) then
    (indices 16).find? fun k => let m := s.tables.festoonSlots.get k
      m.enabled && m.direction == .inbound && m.tag == f.tag
  else none

/-- R122, R125: the enabled festoon OUT slot a POLL asks for, in RUN. -/
def State.festoonPollSlot (s : State) (f : Frame) : Option SlotIx :=
  if s.operating == .run && f.kind == .poll && f.address == s.fp.address then
    (indices 16).find? fun k => let m := s.tables.festoonSlots.get k
      m.enabled && m.direction == .outbound && m.tag == f.tag
  else none

/-- R122, R126: an MGMT frame addressed to the hub. -/
def State.isCommand (s : State) (f : Frame) : Bool := f.kind == .mgmt && f.address == s.fp.address

/-- R69: no rule of the port acts on the good frame. -/
def State.isStray (s : State) (l : Line) (f : Frame) : Bool :=
  match l with
  | .sp => (s.responseFor .sp f).isNone && !s.validReply f
  | .cp => (s.responseFor .cp f).isNone
  | .fp => (s.festoonDataSlot f).isNone && (s.festoonPollSlot f).isNone && !s.isCommand f

/-- R90, R108: the window that was open when a reception began ended while it went on, and the reception was not taken: the turn ends in
a miss, or the search window closes. -/
def Work.windowOver (l : MasterLine) (ended : Bool) (w : Work) : Work :=
  if ended then
    match (w.st.port l).turn with
    | .window k => w.miss l k
    | .none | .due _ _ | .outFrame _ | .outGap _ | .poll _ | .inGap _ | .missed _ =>
      if l == .sp && w.st.hail == .window then w.on fun s => { s with hail := .waiting } else w
  else w

/-! ### FRAME_ERROR -/

/-- R77, R79, R90: a frame error at a master port. Where it overflows the score and the window ended during the reception, the miss of R90
and the detachment of R79 come together, and R100 lets either be taken first: DESIGN CHOICE (log 29), this command takes the detachment
first, so no miss is counted. -/
def Work.masterError (l : MasterLine) (ended : Bool) (w : Work) : Work :=
  let w1 := w.on (State.judged (masterLine l))
  if w1.st.overflows (masterLine l) then w1.detachMaster l
  else (w1.on (State.scoreError (masterLine l))).windowOver l ended

/-- R77, R81: a frame error at the Festoon Port. -/
def State.festoonError (s : State) : State :=
  let s1 := s.beginReception.judged .fp
  if s1.overflows .fp then s1.detachFestoon else s1.scoreError .fp

/-- FRAME_ERROR (R77). -/
def execFrameError (l : Line) (chars : List LineChar) (ended : Bool) (s : State) : Host.Outcome State Fault Refusal :=
  match l with
  | .sp => s.occurs (isFrameError chars && s.masterReceives .sp) (s.work.masterError .sp ended).close
  | .cp => s.occurs (isFrameError chars && s.masterReceives .cp) (s.work.masterError .cp ended).close
  | .fp => s.occurs (isFrameError chars && s.festoonReceives) s.festoonError

/-! ### STRAY_FRAME -/

/-- R69, R77, R90: a good frame at a master port that no rule acts on. -/
def Work.masterStray (l : MasterLine) (ended : Bool) (w : Work) : Work :=
  (w.on fun s => (s.judged (masterLine l)).scoreGood (masterLine l)).windowOver l ended

/-- STRAY_FRAME (R69). -/
def execStrayFrame (l : Line) (f : Frame) (ended : Bool) (s : State) : Host.Outcome State Fault Refusal :=
  match l with
  | .sp => s.occurs (frameWithinLimit f && s.masterReceives .sp && s.isStray .sp f) (s.work.masterStray .sp ended).close
  | .cp => s.occurs (frameWithinLimit f && s.masterReceives .cp && s.isStray .cp f) (s.work.masterStray .cp ended).close
  | .fp => s.occurs (frameWithinLimit f && s.festoonReceives && s.beginReception.isStray .fp f)
      ((s.beginReception.judged .fp).scoreGood .fp)

/-! ### LINE_REST -/

/-- R69: the phase after a rest of 12 bit times; the end of an own festoon frame counts as such a rest (log 6). -/
def State.restChanges (s : State) : Line → Bool
  | .sp => s.scores .sp && s.sp.link.phase == .ignoring
  | .cp => s.scores .cp && s.cp.link.phase == .ignoring
  | .fp => s.scores .fp && (match s.fp.link.phase with
      | .ignoring => true
      | .sending _ _ => !s.fp.restartPending
      | .rested | .receiving => false)

/-- LINE_REST (R69). -/
def execLineRest (l : Line) (s : State) : Host.Outcome State Fault Refusal := s.occurs (s.restChanges l) (s.setPhase l .rested)

/-! ### DETACH_TIMER_EXPIRY -/

/-- R80: the port's feed monitor is enabled and LOW or RECOVERING. -/
def State.feedHolds (s : State) (d : Feed) : Bool :=
  (s.tables.feeds.get (feedIx d)).enabled && ((s.feed d).state == .low || (s.feed d).state == .recovering)

/-- R80: a master port leaves DETACHED. -/
def Work.leaveDetached (l : MasterLine) (w : Work) : Work :=
  if w.st.feedHolds (feedOf l) then w.hold l
  else match l with
    | .sp => w.on State.enterSearch
    | .cp => w.on State.resumeCab

/-- R81: the Festoon Port returns to LISTENING; it judges the next reception that begins after a rest. -/
def State.relisten (s : State) : State :=
  s.onFp fun p => { p with state := .listening, detachTimer := none, link := { p.link with score := 0, health := .active, phase := .ignoring } }

/-- DETACH_TIMER_EXPIRY (R80, R81). -/
def execDetachTimerExpiry (l : Line) (s : State) : Host.Outcome State Fault Refusal :=
  match l with
  | .sp => s.occurs (s.sp.state == .detached && s.sp.detachTimer.isSome) (s.work.leaveDetached .sp).close
  | .cp => s.occurs (s.cp.state == .detached && s.cp.detachTimer.isSome) (s.work.leaveDetached .cp).close
  | .fp => s.occurs (s.fp.state == .detached && s.fp.detachTimer.isSome) s.relisten

end Sys2Proof.Machine
end

