-- ==== Sys2Proof/Machine/Cycles.lean ====
section
/-! DEFINITION. The commands of a master port's cycle: responses, the cycle timer, OUT and IN turns, turn boundaries and misses (R87 to
R98). -/

namespace Sys2Proof.Machine

/-! ### MASTER_RESPONSE_ACCEPTED -/

/-- R91 step 2: the runtime of a slot at an acceptance. -/
def acceptedSlot (now : BitVec 16) (rt : MasterRt) : MasterRt := { rt with status := .live, misses := 0, arrival := now }

/-- R91: a response is accepted for slot `k`, entry `e`; bytes beyond the declared length are ignored (R27). -/
def Work.accept (l : MasterLine) (k : SlotIx) (e : MasterIx) (payload : List Byte) (w : Work) : Work :=
  let m := w.st.slotRec e
  let wasLost := (w.st.masterRt.get e).status == .lost
  let w1 := w.applyRun (w.st.tables.slotRun m) (payload.take m.length)
  let w2 := w1.on fun s => (s.onSlot e (acceptedSlot s.timestamp)).onPort l fun p => { p with turn := .inGap k }
  let w3 := if wasLost then w2.on (State.raise (.slotRegained (masterLine l) k)) else w2
  w3.on (State.requestIf m.chain)

/-- R77, R91: a good frame that is the response of the open window. -/
def Work.response (l : MasterLine) (f : Frame) (w : Work) : Work :=
  match w.st.responseFor l f with
  | none => w
  | some (k, e) => (w.on fun s => (s.judged (masterLine l)).scoreGood (masterLine l)).accept l k e f.payload

/-- MASTER_RESPONSE_ACCEPTED (R91). -/
def execMasterResponseAccepted (l : MasterLine) (f : Frame) (s : State) : Host.Outcome State Fault Refusal :=
  s.occurs (frameWithinLimit f && s.masterReceives l && (s.responseFor l f).isSome) (s.work.response l f).close

/-! ### CYCLE_TIMER_EXPIRY -/

/-- R95: the timer expires during a cycle: it is restarted when the next cycle begins, and CYCLE_OVERRUN is raised if the overrun
flag was clear. -/
def State.cycleOverrun (l : MasterLine) (s : State) : State :=
  let s1 := s.onPort l fun p => { p with overdue := true, cycleTimer := none, overrun := true }
  if (s.port l).overrun then s1 else s1.raise (.cycleOverrun l)

/-- R87, R95: the cycle timer of a CYCLING port expires. -/
def State.cycleExpiry (l : MasterLine) (s : State) : State :=
  match (s.port l).cycle with
  | none => s.startCycle l
  | some _ => s.cycleOverrun l

/-- CYCLE_TIMER_EXPIRY (R87). -/
def execCycleTimerExpiry (l : MasterLine) (s : State) : Host.Outcome State Fault Refusal :=
  s.occurs ((s.port l).state == .cycling && (s.port l).cycleTimer.isSome) (s.cycleExpiry l)

/-! ### OUT turns -/

/-- R88: the OUT turn a port is about to begin, with its slot and its entry. -/
def State.dueOut (s : State) (l : MasterLine) : Option (TurnKind × SlotIx × MasterIx) :=
  match (s.port l).state, (s.port l).turn with
  | .cycling, .due .regularOut k => (s.activeEntry l k).map fun e => (.regularOut, k, e)
  | .cycling, .due .chainedOut k => (s.activeEntry l k).map fun e => (.chainedOut, k, e)
  | _, _ => none

/-- R88, R98: the payload is built and the DATA frame begins; a regular turn also serves a request queued for its slot. -/
def State.beginOut (l : MasterLine) (s : State) : State :=
  match s.dueOut l with
  | none => s
  | some (kind, k, e) =>
    ((s.send (masterLine l) (s.outFrame e)).onPort l fun p =>
      { p with turn := .outFrame k, queue := if kind = .regularOut then p.queue.filter (· ≠ k) else p.queue })

/-- OUT_TURN_START (R88). -/
def execOutTurnStart (l : MasterLine) (s : State) : Host.Outcome State Fault Refusal :=
  s.occurs (s.dueOut l).isSome (s.beginOut l)

/-- The slot whose OUT frame is on the wire. -/
def State.sendingOut (s : State) (l : MasterLine) : Option SlotIx :=
  match (s.port l).state, (s.port l).turn with
  | .cycling, .outFrame k => some k
  | _, _ => none

/-- R94: the end of a ONCE slot's frame disarms it. -/
def disarmed (m : MasterSlot) (rt : MasterRt) : MasterRt := if m.once then { rt with armed := false } else rt

/-- R88, R94: the OUT frame ends; the end of an own frame counts as a rest (R69). -/
def State.endOut (l : MasterLine) (s : State) : State :=
  match s.sendingOut l with
  | none => s
  | some k =>
    let s1 := (s.setPhase (masterLine l) .rested).onPort l fun p => { p with turn := .outGap k }
    match s.activeEntry l k with
    | none => s1
    | some e => s1.onSlot e (disarmed (s.slotRec e))

/-- OUT_FRAME_END (R94). -/
def execOutFrameEnd (l : MasterLine) (s : State) : Host.Outcome State Fault Refusal :=
  s.occurs (s.sendingOut l).isSome (s.endOut l)

/-! ### TURN_BOUNDARY -/

/-- R88, R90, R98: a turn has ended, or the port is idle with a request queued. -/
def MasterPort.atTurnEnd (p : MasterPort) : Bool :=
  p.state == .cycling && (match p.turn with
    | .outGap _ | .inGap _ | .missed _ => true
    | .none => !p.queue.isEmpty
    | .due _ _ | .outFrame _ | .poll _ | .window _ => false)

/-- TURN_BOUNDARY (R98). -/
def execTurnBoundary (l : MasterLine) (s : State) : Host.Outcome State Fault Refusal :=
  s.occurs (s.port l).atTurnEnd (s.atBoundary l)

/-! ### IN turns -/

/-- R89: the IN turn a port is about to begin. -/
def State.dueIn (s : State) (l : MasterLine) : Option (SlotIx × MasterIx) :=
  match (s.port l).state, (s.port l).turn with
  | .cycling, .due .regularIn k => (s.activeEntry l k).map fun e => (k, e)
  | _, _ => none

/-- R89: the POLL begins. -/
def State.beginIn (l : MasterLine) (s : State) : State :=
  match s.dueIn l with
  | none => s
  | some (k, e) => (s.send (masterLine l) (s.pollFrame e)).onPort l fun p => { p with turn := .poll k }

/-- IN_TURN (R89). -/
def execInTurn (l : MasterLine) (s : State) : Host.Outcome State Fault Refusal := s.occurs (s.dueIn l).isSome (s.beginIn l)

/-- The slot whose POLL is on the wire. -/
def State.polling (s : State) (l : MasterLine) : Option SlotIx :=
  match (s.port l).state, (s.port l).turn with
  | .cycling, .poll k => some k
  | _, _ => none

/-- R89: the response window opens. -/
def State.openWindow (l : MasterLine) (s : State) : State :=
  match s.polling l with
  | none => s
  | some k => (s.setPhase (masterLine l) .rested).onPort l fun p => { p with turn := .window k }

/-- POLL_END (R89). -/
def execPollEnd (l : MasterLine) (s : State) : Host.Outcome State Fault Refusal := s.occurs (s.polling l).isSome (s.openWindow l)

/-- The slot whose response window is open. -/
def State.waitingFor (s : State) (l : MasterLine) : Option SlotIx :=
  match (s.port l).state, (s.port l).turn with
  | .cycling, .window k => some k
  | _, _ => none

/-- R90: the window ends with no reception in progress. -/
def Work.windowExpiry (l : MasterLine) (w : Work) : Work :=
  match w.st.waitingFor l with
  | none => w
  | some k => w.miss l k

/-- RESPONSE_WINDOW_EXPIRY (R90). -/
def execResponseWindowExpiry (l : MasterLine) (s : State) : Host.Outcome State Fault Refusal :=
  s.occurs (s.waitingFor l).isSome (s.work.windowExpiry l).close

end Sys2Proof.Machine
end

