-- ==== Sys2Proof/Machine/FeedWatch.lean ====
section
/-! DEFINITION. The Feed Watch: readings (R145 to R148), and the holds and releases its monitors hand to the master ports (R149, R150). -/

namespace Sys2Proof.Machine

/-- Class of a reading (R145). -/
inductive ReadingClass where
  | below | between | above
  deriving DecidableEq, Repr

/-- R145: the class of a reading handed to a monitor. -/
def classOf (e : FeedEntry) (h : Handover) : ReadingClass :=
  match h.outcome with
  | .withheld | .opened => .below
  | .delivered => if h.reading.toNat < e.low then .below else if h.reading.toNat < e.recover then .between else .above

/-- R146, R147: the state and count of a monitor after a reading. -/
def feedStep (e : FeedEntry) (c : ReadingClass) (st : FeedState) (count : Nat) : FeedState × Nat :=
  match st, c with
  | .good, .below => if e.nL ≤ 1 then (.low, 0) else (.dipping, 1)
  | .good, .between | .good, .above => (.good, 0)
  | .dipping, .below => if e.nL ≤ count + 1 then (.low, 0) else (.dipping, count + 1)
  | .dipping, .between | .dipping, .above => (.good, 0)
  | .low, .below | .low, .between => (.low, 0)
  | .low, .above => if e.nG ≤ 1 then (.good, 0) else (.recovering, 1)
  | .recovering, .below | .recovering, .between => (.low, 0)
  | .recovering, .above => if e.nG ≤ count + 1 then (.good, 0) else (.recovering, count + 1)

/-- R146 to R148: what a step raises and hands to the port: on entering LOW, FEED_LOW and a hold; on entering GOOD from LOW or RECOVERING,
FEED_GOOD and a release. -/
def feedOutput (d : Feed) (before after : FeedState) (r : BitVec 12) : Option (Event × FeedOrder) :=
  match before, after with
  | .good, .low | .dipping, .low => some (.feedLow d r, .hold)
  | .low, .good | .recovering, .good => some (.feedGood d r, .release)
  | _, _ => none

/-- R146 to R148: an enabled monitor steps on a reading. -/
def State.stepFeed (d : Feed) (h : Handover) (s : State) : State :=
  let e := s.tables.feeds.get (feedIx d)
  let f := s.feed d
  let n := feedStep e (classOf e h) f.state f.count
  match feedOutput d f.state n.1 h.reading with
  | none => s.onFeed d fun f => { f with state := n.1, count := n.2 }
  | some (event, order) => (s.onFeed d fun f => { f with state := n.1, count := n.2, orders := f.orders ++ [order] }).raise event

/-- R144, R146: the oldest reading handed over is taken; a disabled monitor takes no step on it. -/
def State.takeReading (d : Feed) (s : State) : State :=
  match (s.feed d).handovers with
  | [] => s
  | h :: rest =>
    let s1 := s.onFeed d fun f => { f with handovers := rest }
    if (s.tables.feeds.get (feedIx d)).enabled then s1.stepFeed d h else s1

/-- FEED_READING (R146). -/
def execFeedReading (d : Feed) (s : State) : Host.Outcome State Fault Refusal :=
  s.occurs (s.operating == .run && !(s.feed d).handovers.isEmpty) (s.takeReading d)

/-- The order at the front of what a monitor has handed to its port. -/
def State.nextOrder (s : State) (l : MasterLine) : Option FeedOrder := (s.feed (feedOf l)).orders.head?

/-- The port takes the order. -/
def State.takeOrder (l : MasterLine) (s : State) : State := s.onFeed (feedOf l) fun f => { f with orders := f.orders.tail }

/-- R115, R149: the port takes a hold: a CYCLING port, and a Spreader Port in SEARCH, enters HELD. -/
def Work.takeHold (l : MasterLine) (w : Work) : Work :=
  let w1 := w.on (State.takeOrder l)
  match (w1.st.port l).state with
  | .cycling => w1.hold l
  | .search => match l with
    | .sp => w1.hold .sp
    | .cp => w1
  | .off | .held | .detached => w1

/-- PORT_HOLD (R149, R115). -/
def execPortHold (l : MasterLine) (s : State) : Host.Outcome State Fault Refusal :=
  s.occurs (s.nextOrder l == some .hold) (s.work.takeHold l).close

/-- R116, R150: the port takes a release: a HELD Cab Port returns to CYCLING, a HELD Spreader Port clears its area and searches. -/
def Work.takeRelease (l : MasterLine) (w : Work) : Work :=
  let w1 := w.on (State.takeOrder l)
  match (w1.st.port l).state with
  | .held => match l with
    | .sp => (w1.clearArea .spreader).on State.enterSearch
    | .cp => w1.on State.resumeCab
  | .off | .search | .cycling | .detached => w1

/-- PORT_RELEASE (R150, R116). -/
def execPortRelease (l : MasterLine) (s : State) : Host.Outcome State Fault Refusal :=
  s.occurs (s.nextOrder l == some .release) (s.work.takeRelease l).close

end Sys2Proof.Machine
end

