-- ==== Sys2Proof/Machine/Festoon.lean ====
section
/-! DEFINITION. The commands of the festoon line (R123 to R128): DATA, POLL, the answers, the beginning of a reception, stale timers. -/

namespace Sys2Proof.Machine

/-! ### FESTOON_DATA_ACCEPTED -/

/-- R123 step 2: the runtime of a festoon slot at an acceptance. -/
def acceptedFestoon (limit : Nat) (now : BitVec 16) : FestoonRt := ⟨.live, some limit, now⟩

/-- R123: a DATA frame accepted for festoon slot `k`; bytes beyond the declared length are ignored (R27). -/
def Work.acceptFestoon (k : SlotIx) (payload : List Byte) (w : Work) : Work :=
  let m := w.st.tables.festoonSlots.get k
  let wasLost := (w.st.fp.slots.get k).status == .lost
  let w1 := w.applyRun (w.st.tables.festoonRun m) (payload.take m.length)
  let w2 := w1.on fun s => s.onFp fun p => { p with slots := p.slots.set k (acceptedFestoon m.staleLimit s.timestamp) }
  let w3 := if wasLost then w2.on (State.raise (.slotRegained .fp k)) else w2
  w3.on (State.requestIf m.chain)

/-- The part after a good frame has ended on the festoon line, before any rule acts on it (R69, R77, R127). -/
def State.festoonGood (s : State) : State := (s.beginReception.judged .fp).scoreGood .fp

/-- R123: the frame is applied to its slot. -/
def State.takeData (f : Frame) (s : State) : State :=
  match s.beginReception.festoonDataSlot f with
  | none => s
  | some k => (s.festoonGood.work.acceptFestoon k f.payload).close

/-- FESTOON_DATA_ACCEPTED (R123). -/
def execFestoonDataAccepted (f : Frame) (s : State) : Host.Outcome State Fault Refusal :=
  s.occurs (frameWithinLimit f && s.festoonReceives && (s.beginReception.festoonDataSlot f).isSome) (s.takeData f)

/-! ### FESTOON_POLL and the answers -/

/-- R125: the answer of the slot becomes due. -/
def State.takePoll (f : Frame) (s : State) : State :=
  match s.beginReception.festoonPollSlot f with
  | none => s
  | some k => s.festoonGood.onFp fun p => { p with due := some (.data k) }

/-- FESTOON_POLL (R125). -/
def execFestoonPoll (f : Frame) (s : State) : Host.Outcome State Fault Refusal :=
  s.occurs (frameWithinLimit f && s.festoonReceives && (s.beginReception.festoonPollSlot f).isSome) (s.takePoll f)

/-- FESTOON_RECEPTION_START (R127). -/
def execFestoonReceptionStart (s : State) : Host.Outcome State Fault Refusal :=
  s.occurs (s.scores .fp && s.fp.link.phase == .rested) s.beginReception

/-- The port may begin an answer: LISTENING, neither receiving nor sending. -/
def State.mayAnswer (s : State) : Bool :=
  s.scores .fp && (s.fp.link.phase == .rested || s.fp.link.phase == .ignoring)

/-- R125, R128: the DATA answer of a slot, built from the image and gate states as they stand. -/
def State.answerFrame (s : State) (k : SlotIx) : Frame :=
  let m := s.tables.festoonSlots.get k
  { address := s.fp.address, kind := .data, tag := m.tag, attn := s.attn, ovf := s.ovf
    payload := s.build (s.tables.festoonRun m) m.length }

/-- R126, R128: the MGMT_REPLY, with its flags taken now. -/
def State.replyFrame (s : State) (tag : BitVec 6) (payload : List Byte) : Frame :=
  { address := s.fp.address, kind := .mgmtReply, tag := tag, attn := s.attn, ovf := s.ovf, payload := payload }

/-- The slot whose DATA answer is due. -/
def State.dueData (s : State) : Option SlotIx :=
  match s.fp.due with
  | some (.data k) => some k
  | some (.reply _ _ _) | none => none

/-- R125: the DATA answer begins. -/
def State.beginAnswer (s : State) : State :=
  match s.dueData with
  | none => s
  | some k => (s.send .fp (s.answerFrame k)).onFp fun p => { p with due := none }

/-- FESTOON_DATA_ANSWER (R125); an answer is due in RUN only (R127). -/
def execFestoonDataAnswer (s : State) : Host.Outcome State Fault Refusal :=
  s.occurs (s.mayAnswer && s.dueData.isSome && s.operating == .run) s.beginAnswer

/-- The MGMT_REPLY that is due. -/
def State.dueReply (s : State) : Option (BitVec 6 × List Byte × Rate) :=
  match s.fp.due with
  | some (.reply tag payload rate) => some (tag, payload, rate)
  | some (.data _) | none => none

/-- R126: the MGMT_REPLY begins, at the rate fixed when its command was taken (R67). -/
def State.beginReply (s : State) : State :=
  match s.dueReply with
  | none => s
  | some (tag, payload, rate) =>
    (s.setPhase .fp (.sending (s.replyFrame tag payload) rate)).onFp fun p => { p with due := none }

/-- MGMT_REPLY_START (R126). -/
def execMgmtReplyStart (s : State) : Host.Outcome State Fault Refusal :=
  s.occurs (s.mayAnswer && s.dueReply.isSome) s.beginReply

/-! ### STALE_TIMER_EXPIRY -/

/-- R124: a festoon slot whose stale timer has expired. -/
def lostFestoon (rt : FestoonRt) : FestoonRt := { rt with status := .lost, staleTimer := none }

/-- R124: the slot enters LOST, with SLOT_LOST, and its signals go STALE. -/
def Work.staleExpiry (k : SlotIx) (w : Work) : Work :=
  (w.on fun s => (s.onFp fun p => { p with slots := p.slots.modify k lostFestoon }).raise (.slotLost .fp k)).stale
    (writtenSignals (w.st.tables.festoonRun (w.st.tables.festoonSlots.get k)))

/-- STALE_TIMER_EXPIRY (R124). -/
def execStaleTimerExpiry (k : SlotIx) (s : State) : Host.Outcome State Fault Refusal :=
  s.occurs (s.fp.slots.get k).staleTimer.isSome (s.work.staleExpiry k).close

end Sys2Proof.Machine
end

