-- ==== Sys2Proof/Machine/Gates.lean ====
section
/-! DEFINITION. The Gate Unit: terms (R43 to R49), gate transitions (R52 to R56) and the sweep (R51, R57 to R59). -/

namespace Sys2Proof.Machine

/-! ### Terms -/

/-- R43: a view is acceptable for the terms of a gate. -/
def ViewQuality.acceptable (acceptForced : Bool) : ViewQuality → Bool
  | .stored .good | .stored .clamped => true
  | .forced => acceptForced
  | .stored (.suspect _) | .stored .stale | .stored .absent => false

/-- R44, R45: the comparison of tests 0 to 4 with K. -/
def compareTest (test : Test) (value : Int) (k : BitVec 16) : Bool :=
  match test with
  | .eq => value == k.toInt
  | .ge => decide (k.toInt ≤ value)
  | .le => decide (value ≤ k.toInt)
  | .any => (BitVec.ofInt 16 value &&& k) != 0
  | .all => (BitVec.ofInt 16 value &&& k) == k
  | .fresh | .gate | .always => false

/-- R47: gate K was OPEN at the end of the previous sweep. -/
def State.savedOpen (s : State) (k : BitVec 16) : Bool :=
  match s.gateRt.get? k.toNat with
  | some rt => rt.saved == .opened
  | none => false

/-- R43 to R48: the result of a term. -/
def State.termResult (s : State) (acceptForced : Bool) (t : Term) : Bool :=
  match t.test with
  | .eq | .ge | .le | .any | .all =>
    let v := s.read t.addr
    v.quality.acceptable acceptForced && (compareTest t.test v.value t.k != t.negate)
  | .fresh =>
    let v := s.read t.addr
    (v.quality.acceptable acceptForced && decide (v.age ≤ t.k.toNat)) != t.negate
  | .gate => s.savedOpen t.k != t.negate
  | .always => !t.negate

/-- The terms a gate uses: g × 8 to g × 8 + count − 1 (R40). -/
def Tables.gateTerms (t : Tables) (g : GateIx) : List Term :=
  (List.range (t.gates.get g).termCount).filterMap fun k => t.terms.get? (g.val * 8 + k)

/-- R49: the raw result of a gate: every term is true. -/
def State.rawResult (s : State) (g : GateIx) : Bool :=
  (s.tables.gateTerms g).all (s.termResult (s.tables.gates.get g).acceptForced)

/-- R56: the re-arm signal's view is acceptable and not 0. -/
def State.rearmed (s : State) (c : Gate) : Bool :=
  match c.rearm with
  | none => false
  | some a => let v := s.read a
              v.quality.acceptable c.acceptForced && v.value != 0

/-! ### Transitions -/

/-- R52 to R56: the state and rise count of a gate after a sweep. -/
def gateStep (c : Gate) (raw rearm : Bool) (st : GateState) (count : Nat) : GateState × Nat :=
  match st with
  | .closed => if raw then (if c.k ≤ 1 then .opened else .rising, 1) else (.closed, 0)
  | .rising => if raw then (if c.k ≤ count + 1 then (.opened, c.k) else (.rising, count + 1)) else (.closed, 0)
  | .opened => if raw then (.opened, c.k) else (if c.latching then .locked else .closed, 0)
  | .locked => (if rearm then .closed else .locked, 0)

/-- The runtime of a gate after a sweep: an enabled gate takes its transition and saves its state, a disabled one is passed over
(R51, R57). -/
def State.sweptGate (s : State) (g : GateIx) (rt : GateRt) : GateRt :=
  let c := s.tables.gates.get g
  if c.enabled then
    let n := gateStep c (s.rawResult g) (s.rearmed c) rt.state rt.count
    ⟨n.1, n.2, n.1⟩
  else rt

/-- R58: the events of a sweep for gate `g`. -/
def gateEvents (g : GateIx) (before after : GateState) : List Event :=
  match before, after with
  | .opened, .opened => []
  | _, .opened => [.gateOpened g]
  | .opened, .locked => [.gateClosed g true]
  | .opened, _ => [.gateClosed g false]
  | _, _ => []

/-- The gate entered or left OPEN (R58, R59). -/
def crossed (before after : GateState) : Bool := (before == .opened) != (after == .opened)

/-- R14, R57: the output signal of every enabled gate is written, in ascending gate index. -/
def Work.writeOutputs (w : Work) : Work :=
  (indices 32).foldl (fun w g =>
    let c := w.st.tables.gates.get g
    if c.enabled then
      w.changeAt c.output (SigRec.written (if (w.st.gateRt.get g).state == .opened then 1 else 0) .good)
    else w) w

/-- R58: the events of a sweep, in ascending gate index. -/
def sweepEvents (before after : Tab GateRt 32) : List Event :=
  (indices 32).flatMap fun g => gateEvents g (before.get g).state (after.get g).state

/-- R59: the chain requests of a sweep, in ascending gate index. -/
def State.sweepChains (before : Tab GateRt 32) (s : State) : State :=
  (indices 32).foldl (fun s' g =>
    if crossed (before.get g).state (s'.gateRt.get g).state then s'.requestIf (s'.tables.gates.get g).chain else s') s

/-- R50: the sweep timer restarts at each expiry with the period that GATE entry 32 holds. -/
def State.restartSweepTimer (s : State) : State := { s with sweepTimer := some s.tables.sweepPeriod }

/-- R51, R57 to R59: one sweep. -/
def Work.sweep (w : Work) : Work :=
  let before := w.st.gateRt
  let w1 := w.on fun s => { s with gateRt := s.gateRt.mapIdx fun g rt => s.sweptGate g rt }
  (w1.writeOutputs.on fun s => s.raiseAll (sweepEvents before s.gateRt)).on fun s =>
    (s.sweepChains before).restartSweepTimer

/-- SWEEP (R51). -/
def execSweep (s : State) : Host.Outcome State Fault Refusal :=
  s.occurs (s.operating == .run && s.sweepTimer.isSome) s.work.sweep.close

end Sys2Proof.Machine
end

