-- ==== Sys2Proof/Machine/Lifecycle.lean ====
section
/-! DEFINITION. Power-on, the reset input, the warm restart's taking effect, and the 1 ms timer (R2, R152, R153, R163). -/

namespace Sys2Proof.Machine

/-- POWER_ON (R152, R153): every table, runtime state and record takes its power-on value, and the strap is read. -/
def execPowerOn (strap : BitVec 5) (s : State) : Host.Outcome State Fault Refusal := .next (.powerOn strap s.pending)

/-- RESET_INPUT_ASSERT (R153). -/
def execResetInputAssert (s : State) : Host.Outcome State Fault Refusal := .next s.holdReset

/-- RESET_INPUT_RELEASE (R153): the part starts as at power-on. -/
def execResetInputRelease (strap : BitVec 5) (s : State) : Host.Outcome State Fault Refusal := .next (.powerOn strap s.pending)

/-- R2: a record's age advances by one and saturates. -/
def SigRec.aged (r : SigRec) : SigRec := { r with age := min (r.age + 1) Config.maxAge }

/-- R2, R152: one expiry of the 1 ms timer. -/
def State.tick (s : State) : State := { s with image := s.image.map SigRec.aged, timestamp := s.timestamp + 1 }

/-- AGE_TIMER_EXPIRY (R2). -/
def execAgeTimerExpiry (s : State) : Host.Outcome State Fault Refusal := s.occurs true s.tick

/-- The RESTART's reply is on the wire (R162). -/
def State.restartReplySent (s : State) : Bool :=
  s.fp.restartPending && (match s.fp.link.phase with
    | .sending _ _ => true
    | .rested | .receiving | .ignoring => false)

/-- WARM_RESTART (R162, R163): the last CRC byte of the RESTART's reply has ended; that end counts as a rest (R69). -/
def execWarmRestart (s : State) : Host.Outcome State Fault Refusal :=
  s.occurs s.restartReplySent (s.warmRestart.setPhase .fp .rested)

end Sys2Proof.Machine
end

