-- ==== Sys2Proof/Machine/Validate.lean ====
section
/-! DEFINITION. The validation of ENTER_RUN: the 23 passes of R158 in their order, each naming its first failing entry under R159. -/

namespace Sys2Proof.Machine

/-- Table ids of R73. -/
inductive TableId where
  | area | line | profile | slot | placement | conversion | gate | term | trolley | feed | watch
  deriving DecidableEq, Repr

/-- The id byte of a table (R73). -/
def tableCode : TableId → Nat
  | .area => 1 | .line => 2 | .profile => 3 | .slot => 4 | .placement => 5 | .conversion => 6 | .gate => 7 | .term => 8
  | .trolley => 9 | .feed => 10 | .watch => 11

/-- The table of an id byte (R73). -/
def tableOfCode : Nat → Option TableId
  | 1 => some .area | 2 => some .line | 3 => some .profile | 4 => some .slot | 5 => some .placement | 6 => some .conversion
  | 7 => some .gate | 8 => some .term | 9 => some .trolley | 10 => some .feed | 11 => some .watch
  | _ => none

/-- Reasons of an INVALID reply, in the order of R73. -/
inductive InvalidReason where
  | areaOverlap | areaBounds | slotTagDup | slotLength | placeField | placeOwner | placeOverlap | placeSelector | placeConv
  | placeGate | placeSafe | writerDup | profileCodeDup | profileNone | cycleBudget | gateTerms | termSignal | termGate
  | gateOutput | gateRearm | chainTarget | channelOff | feedChannel
  deriving DecidableEq, Repr

/-- Reason code: the position in the list, from 0x01 (R73). -/
def reasonCode : InvalidReason → Nat
  | .areaOverlap => 1 | .areaBounds => 2 | .slotTagDup => 3 | .slotLength => 4 | .placeField => 5 | .placeOwner => 6
  | .placeOverlap => 7 | .placeSelector => 8 | .placeConv => 9 | .placeGate => 10 | .placeSafe => 11 | .writerDup => 12
  | .profileCodeDup => 13 | .profileNone => 14 | .cycleBudget => 15 | .gateTerms => 16 | .termSignal => 17 | .termGate => 18
  | .gateOutput => 19 | .gateRearm => 20 | .chainTarget => 21 | .channelOff => 22 | .feedChannel => 23

/-- The failure an INVALID reply carries. -/
structure Failure where
  table : TableId
  entry : Nat
  reason : InvalidReason
  deriving DecidableEq, Repr

/-! ### Areas (passes 1 and 2) -/

/-- An enabled entry whose first does not exceed its last. -/
def AreaEntry.bounded (a : AreaEntry) : Bool := a.enabled && a.first ≤ a.last

/-- Two bounded entries share an index. -/
def AreaEntry.overlaps (a b : AreaEntry) : Bool := a.bounded && b.bounded && a.first ≤ b.last && b.first ≤ a.last

/-- Pass 1: the higher of two entries that share an index. -/
def Tables.failAreaOverlap (t : Tables) : Option Nat :=
  ((indices 8).find? fun j => (indices 8).any fun i => decide (i < j) && (t.areas.get i).overlaps (t.areas.get j)).map (·.val)

/-- Pass 2: an enabled entry with first > last. -/
def Tables.failAreaBounds (t : Tables) : Option Nat :=
  ((indices 8).find? fun j => (t.areas.get j).enabled && decide ((t.areas.get j).last < (t.areas.get j).first)).map (·.val)

/-! ### The slots examined -/

/-- The slot set a slot belongs to. -/
inductive SlotSet where
  | profile (p : Nat) | cab | festoon | trolley
  deriving DecidableEq, Repr

/-- What the passes examine of a slot, whatever its table. -/
structure Examined where
  set : SlotSet
  table : TableId
  entry : Nat
  direction : Direction
  tag : BitVec 6
  length : Nat
  first : Nat
  count : Nat
  chain : Option ChainTarget
  deriving DecidableEq, Repr

/-- The set of a master entry. -/
def setOfEntry (e : MasterIx) : SlotSet := if e.val < 64 then .profile (e.val / 16) else .cab

/-- The set of a master entry is examined: a profile's only when the profile is enabled (R158). -/
def Tables.setExamined (t : Tables) (e : MasterIx) : Bool :=
  match t.profiles.get? (e.val / 16) with
  | some p => p.enabled
  | none => true

/-- The examined master slots, in ascending entry: enabled slots of enabled profiles, then enabled cab slots. -/
def Tables.examinedMaster (t : Tables) : List Examined :=
  (indices 80).filterMap fun e =>
    let m := t.masterSlots.get e
    if m.enabled && t.setExamined e then
      some ⟨setOfEntry e, .slot, e.val, m.direction, m.tag, m.length, m.first, m.count, m.chain⟩
    else none

/-- The examined festoon slots, SLOT entries 80 to 95. -/
def Tables.examinedFestoon (t : Tables) : List Examined :=
  (indices 16).filterMap fun k =>
    let f := t.festoonSlots.get k
    if f.enabled then some ⟨.festoon, .slot, 80 + k.val, f.direction, f.tag, f.length, f.first, f.count, f.chain⟩ else none

/-- The enabled slots of the slot sets (passes 3 and 4). -/
def Tables.examinedSlots (t : Tables) : List Examined := t.examinedMaster ++ t.examinedFestoon

/-- L0, L1 and L2 with their fixed directions and lengths (R130, R142). -/
def Tables.examinedL (t : Tables) : List Examined :=
  [⟨.trolley, .trolley, 32, .inbound, 0, 32, t.l0.first, t.l0.count, none⟩,
   ⟨.trolley, .trolley, 33, .inbound, 0, 2, t.l1.first, t.l1.count, none⟩,
   ⟨.trolley, .trolley, 34, .outbound, 0, 1, t.l2.first, t.l2.count, none⟩]

/-- The slots whose placements are examined (passes 5 to 12), in the order of R159. -/
def Tables.examinedAll (t : Tables) : List Examined := t.examinedSlots ++ t.examinedL

/-- The first slot that fails a condition, with the slots before it. -/
def firstFailing (bad : List Examined → Examined → Bool) : List Examined → List Examined → Option Examined
  | _, [] => none
  | before, x :: rest => if bad before x then some x else firstFailing bad (before ++ [x]) rest

/-! ### Slots and placements (passes 3 to 12) -/

/-- Pass 3: an earlier slot of the same set carries the same tag (R101, R129). -/
def tagDup (before : List Examined) (x : Examined) : Bool := before.any fun y => y.set == x.set && y.tag == x.tag

/-- Pass 4: an IN slot of declared length 0 (R101, R129). -/
def lengthZero (x : Examined) : Bool := x.direction == .inbound && x.length == 0

/-- The placements of an examined slot. -/
def Tables.placed (t : Tables) (x : Examined) : List Placement := t.run x.first x.count

/-- Pass 5 (R24). -/
def Tables.placeField (t : Tables) (x : Examined) : Bool :=
  decide (384 < x.first + x.count) ||
    (t.placed x).any fun p => p.width == 0 || p.direction != x.direction || decide (8 * x.length < p.offset + p.width)

/-- The owner an IN placement of a set must write (R24). -/
def SlotSet.owner : SlotSet → Owner
  | .profile _ => .spreader
  | .cab => .cab
  | .festoon => .festoon
  | .trolley => .trolley

/-- An IN placement of an IN slot. -/
def inPlacement (p : Placement) : Bool := p.direction == .inbound

/-- Pass 6 (R24). -/
def Tables.placeOwner (t : Tables) (x : Examined) : Bool :=
  (t.placed x).any fun p => inPlacement p && !t.ownedBy x.set.owner p.addr.base

/-- Two fields share a payload bit (R25). -/
def Placement.overlaps (p q : Placement) : Bool := decide (p.offset < q.offset + q.width) && decide (q.offset < p.offset + p.width)

/-- Some two members of a list stand in a relation, the earlier first. -/
def somePair {α : Type} (r : α → α → Bool) : List α → Bool
  | [] => false
  | x :: xs => xs.any (r x) || somePair r xs

/-- Pass 7 (R25). -/
def Tables.placeOverlap (t : Tables) (x : Examined) : Bool := somePair Placement.overlaps (t.placed x)

/-- Pass 8 (R24). -/
def Tables.placeSelector (t : Tables) (x : Examined) : Bool := (t.placed x).any fun p => inPlacement p && p.addr.selector.isSome

/-- Pass 9 (R26). -/
def Tables.placeConv (t : Tables) (x : Examined) : Bool :=
  (t.placed x).any fun p =>
    match p.conversion with
    | none => false
    | some c =>
      let r := t.conversions.get c
      !r.enabled || (inPlacement p && !(decide (r.lo ≤ 0) && decide (0 ≤ r.hi)))

/-- Pass 10 (R26). -/
def Tables.placeGate (t : Tables) (x : Examined) : Bool :=
  (t.placed x).any fun p =>
    match p.gate with
    | none => false
    | some g => inPlacement p || !(t.gates.get g).enabled

/-- Pass 11 (R26). -/
def Tables.placeSafe (t : Tables) (x : Examined) : Bool :=
  (t.placed x).any fun p => !inPlacement p && decide (2 ^ p.width ≤ p.safe.toNat)

/-- The signal indices an examined slot's IN placements claim (R159). -/
def Tables.claims (t : Tables) (x : Examined) : List SigIx := writtenSignals (t.placed x)

/-- A claim of `x` may conflict with one of the earlier slot `y`: not between slots of two different profiles (R159). -/
def mayConflict (y x : Examined) : Bool :=
  match x.set with
  | .profile _ => y.set == x.set
  | .cab | .festoon | .trolley => true

/-- Pass 12 (R25, R159). -/
def Tables.writerDup (t : Tables) (before : List Examined) (x : Examined) : Bool :=
  somePair (fun i j => i == j) (t.claims x) ||
    before.any fun y => mayConflict y x && (t.claims y).any fun i => (t.claims x).contains i

/-! ### Profiles and the cycle budget (passes 13 to 15) -/

/-- Pass 13 (R118): the higher index of two enabled profiles of one type code. -/
def Tables.failProfileDup (t : Tables) : Option Nat :=
  ((indices 4).find? fun q => (t.profiles.get q).enabled && (indices 4).any fun p =>
    decide (p < q) && (t.profiles.get p).enabled && (t.profiles.get p).typeCode == (t.profiles.get q).typeCode).map (·.val)

/-- The slots of a profile. -/
def Tables.profileSlots (t : Tables) (p : ProfileIx) : List MasterSlot := (indices 16).map fun k => t.masterSlots.get (profileEntry p k)

/-- The cab slots. -/
def Tables.cabSlots (t : Tables) : List MasterSlot := (indices 16).map fun k => t.masterSlots.get (cabEntry k)

/-- Pass 14 (R118). -/
def Tables.failProfileNone (t : Tables) : Option Nat :=
  if (t.lines.get 0).enabled && (indices 4).all (fun p => !(t.profiles.get p).enabled) then some 0
  else ((indices 4).find? fun p => (t.profiles.get p).enabled &&
    !(t.profileSlots p).any fun m => m.enabled && m.direction == .inbound).map (·.val)

/-- Bit time of a rate in µs (R67). -/
def bitTime : Rate → Nat
  | .kbit250 => 4 | .kbit500 => 2 | .kbit1000 => 1

/-- Budget of a slot in µs (R103). -/
def slotBudget (b : Nat) (m : MasterSlot) : Nat :=
  match m.direction with
  | .outbound => (frameBitTimes m.length + gapBitTimes) * b
  | .inbound => (60 + frameBitTimes m.length + gapBitTimes) * b + m.window * 10

/-- The sum of the budgets of the enabled slots of a set (R104). -/
def setBudget (b : Nat) (ms : List MasterSlot) : Nat := ((ms.filter (·.enabled)).map (slotBudget b)).sum

/-- The set's budget exceeds the cycle period of its LINE entry (R104). -/
def overBudget (e : LineEntry) (ms : List MasterSlot) : Bool :=
  e.enabled && decide (e.cyclePeriod * 1000 < setBudget (bitTime e.rate) ms)

/-- Pass 15 (R104): LINE entry 1 for the cab set, then PROFILE p for profile p. -/
def Tables.failBudget (t : Tables) : Option (TableId × Nat) :=
  if overBudget (t.lines.get 1) t.cabSlots then some (.line, 1)
  else ((indices 4).find? fun p => (t.profiles.get p).enabled && overBudget (t.lines.get 0) (t.profileSlots p)).map fun p =>
    (.profile, p.val)

/-! ### Gates and terms (passes 16 to 20) -/

/-- The terms gate `g` uses: g × 8 to g × 8 + count − 1 (R40). -/
def Tables.usedTerms (t : Tables) (g : GateIx) : List (Nat × Term) :=
  (List.range (t.gates.get g).termCount).filterMap fun k => (t.terms.get? (g.val * 8 + k)).map fun x => (g.val * 8 + k, x)

/-- The terms used by enabled gates, in ascending term index. -/
def Tables.examinedTerms (t : Tables) : List (Nat × Term) :=
  (indices 32).flatMap fun g => if (t.gates.get g).enabled then t.usedTerms g else []

/-- The first gate that fails a condition. -/
def Tables.failGate (t : Tables) (bad : GateIx → Gate → Bool) : Option Nat :=
  ((indices 32).find? fun g => (t.gates.get g).enabled && bad g (t.gates.get g)).map (·.val)

/-- Tests 0 to 5 read a signal; tests 6 and 7 do not (R42). -/
def Test.reads : Test → Bool
  | .eq | .ge | .le | .any | .all | .fresh => true
  | .gate | .always => false

/-- Pass 17 (R62). -/
def Tables.termSignal (t : Tables) (x : Term) : Bool :=
  x.test.reads && (match x.addr.selector with
    | none => !t.assigned x.addr.base
    | some sel => !t.assigned sel)

/-- Pass 18 (R62). -/
def Tables.termGate (t : Tables) (x : Term) : Bool :=
  x.test == .gate && (match t.gates.get? x.k.toNat with
    | none => true
    | some g => !g.enabled)

/-- Pass 19 (R63): the output lies in no GATE area, or a lower enabled gate has the same output. -/
def Tables.gateOutput (t : Tables) (g : GateIx) (x : Gate) : Bool :=
  !t.ownedBy .gate x.output || (indices 32).any fun h =>
    decide (h < g) && (t.gates.get h).enabled && (t.gates.get h).output == x.output

/-- Pass 20 (R63). -/
def Tables.gateRearm (t : Tables) (x : Gate) : Bool :=
  x.latching && (match x.rearm with
    | none => true
    | some a => a.selector.isSome || !t.assigned a.base)

/-! ### Chains, channels and feeds (passes 21 to 23) -/

/-- An enabled slot of a direction. -/
def MasterSlot.isEnabled (d : Direction) (m : MasterSlot) : Bool := m.enabled && m.direction == d

/-- Some enabled profile holds an enabled slot of direction `d` at index `k`. -/
def Tables.someProfileHas (t : Tables) (d : Direction) (k : SlotIx) : Bool :=
  (indices 4).any fun p => (t.profiles.get p).enabled && (t.masterSlots.get (profileEntry p k)).isEnabled d

/-- R64, R102: a chain target that cannot be served, judged for a cab or festoon slot or a gate. -/
def Tables.badChain (t : Tables) : ChainTarget → Bool
  | .cp k => !(t.masterSlots.get (cabEntry k)).isEnabled .outbound
  | .sp k => !t.someProfileHas .outbound k || t.someProfileHas .inbound k
  | .l => false

/-- R102: a chain target that cannot be served, judged for a slot of its set. -/
def Tables.badSlotChain (t : Tables) (x : Examined) : Bool :=
  x.direction == .inbound && (match x.chain with
    | none => false
    | some c => match x.set, c with
      | .profile p, .sp k => match t.masterSlots.get? (p * 16 + k.val) with
        | some m => !m.isEnabled .outbound
        | none => true
      | _, c => t.badChain c)

/-- Pass 21 (R64, R102, R129): SLOT entries first, then gates. -/
def Tables.failChain (t : Tables) : Option (TableId × Nat) :=
  match t.examinedSlots.find? t.badSlotChain with
  | some x => some (.slot, x.entry)
  | none => (t.failGate fun _ g => match g.chain with
      | none => false
      | some c => t.badChain c).map fun g => (.gate, g)

/-- The channels of an L0 placement (R136). -/
def Placement.reads (p : Placement) (c : Nat) : Bool := decide (p.offset / 16 ≤ c) && decide (c ≤ (p.offset + p.width - 1) / 16)

/-- Pass 22 (R142). -/
def Tables.failChannel (t : Tables) : Option Nat :=
  ((indices 16).find? fun c => !(t.channels.get c).enabled && (t.lRun t.l0).any fun p => p.reads c.val).map (·.val)

/-- Pass 23 (R151). -/
def Tables.failFeed (t : Tables) : Option Nat :=
  if (t.feeds.get 0).enabled && !(t.channels.get 15).enabled then some 0
  else if (t.feeds.get 1).enabled && !(t.channels.get 14).enabled then some 1
  else none

/-! ### The passes in order -/

/-- A failure in one table. -/
def inTable (table : TableId) (reason : InvalidReason) (entry : Option Nat) : Option Failure :=
  entry.map fun n => ⟨table, n, reason⟩

/-- A failure of an examined slot. -/
def atSlot (reason : InvalidReason) (x : Option Examined) : Option Failure := x.map fun x => ⟨x.table, x.entry, reason⟩

/-- A failure named by table and entry. -/
def atEntry (reason : InvalidReason) (x : Option (TableId × Nat)) : Option Failure := x.map fun x => ⟨x.1, x.2, reason⟩

/-- The 23 passes of R158, each with its first failing entry. -/
def Tables.passes (t : Tables) : List (Option Failure) :=
  [ inTable .area .areaOverlap t.failAreaOverlap,
    inTable .area .areaBounds t.failAreaBounds,
    atSlot .slotTagDup (firstFailing tagDup [] t.examinedSlots),
    atSlot .slotLength (t.examinedSlots.find? lengthZero),
    atSlot .placeField (t.examinedAll.find? t.placeField),
    atSlot .placeOwner (t.examinedAll.find? t.placeOwner),
    atSlot .placeOverlap (t.examinedAll.find? t.placeOverlap),
    atSlot .placeSelector (t.examinedAll.find? t.placeSelector),
    atSlot .placeConv (t.examinedAll.find? t.placeConv),
    atSlot .placeGate (t.examinedAll.find? t.placeGate),
    atSlot .placeSafe (t.examinedAll.find? t.placeSafe),
    atSlot .writerDup (firstFailing t.writerDup [] t.examinedAll),
    inTable .profile .profileCodeDup t.failProfileDup,
    inTable .profile .profileNone t.failProfileNone,
    atEntry .cycleBudget t.failBudget,
    inTable .gate .gateTerms (t.failGate fun _ g => g.termCount == 0),
    inTable .term .termSignal ((t.examinedTerms.find? fun x => t.termSignal x.2).map (·.1)),
    inTable .term .termGate ((t.examinedTerms.find? fun x => t.termGate x.2).map (·.1)),
    inTable .gate .gateOutput (t.failGate t.gateOutput),
    inTable .gate .gateRearm (t.failGate fun _ g => t.gateRearm g),
    atEntry .chainTarget t.failChain,
    inTable .trolley .channelOff t.failChannel,
    inTable .feed .feedChannel t.failFeed ]

/-- R158: the first refusal of the passes, none where every pass finds nothing. -/
def Tables.validate (t : Tables) : Option Failure := t.passes.findSome? id

end Sys2Proof.Machine
end

