-- ==== Sys2Proof/Machine/Operands.lean ====
section
/-! DEFINITION. The operand forms of READ_TABLE and WRITE_TABLE: table records as bytes (R76 and each table's own rule), with the
refusals and clamps of R155 and R156. -/

namespace Sys2Proof.Machine

/-! ### Field codes -/

/-- The number as an index below `n`, none where it is outside (R155 step 5). -/
def finOf (n k : Nat) : Option (Fin n) := if h : k < n then some ⟨k, h⟩ else none

/-- A flag byte: 0 no, 1 yes; any other value is outside its range (R76, log 23). -/
def flagOf : Nat → Option Bool
  | 0 => some false | 1 => some true | _ => none

/-- Direction code (R83). -/
def directionOf : Nat → Option Direction
  | 0 => some .inbound | 1 => some .outbound | _ => none

/-- Code of a direction. -/
def directionCode : Direction → Nat
  | .inbound => 0 | .outbound => 1

/-- Owner code: the position in the list of R6. -/
def ownerOf : Nat → Option Owner
  | 0 => some .spreader | 1 => some .cab | 2 => some .festoon | 3 => some .trolley | 4 => some .gate | 5 => some .panel
  | _ => none

/-- Code of an owner. -/
def ownerCode : Owner → Nat
  | .spreader => 0 | .cab => 1 | .festoon => 2 | .trolley => 3 | .gate => 4 | .panel => 5

/-- Rate code: the position in the list of R82. -/
def rateOf : Nat → Option Rate
  | 0 => some .kbit250 | 1 => some .kbit500 | 2 => some .kbit1000 | _ => none

/-- Code of a rate. -/
def rateCode : Rate → Nat
  | .kbit250 => 0 | .kbit500 => 1 | .kbit1000 => 2

/-- Scale byte (R8). -/
def scaleOf : Nat → Option Scale
  | 1 => some .x1 | 2 => some .x2 | 4 => some .x4 | 8 => some .x8 | 16 => some .x16 | _ => none

/-- Test code (R42). -/
def testOf : Nat → Option Test
  | 0 => some .eq | 1 => some .ge | 2 => some .le | 3 => some .any | 4 => some .all | 5 => some .fresh | 6 => some .gate
  | 7 => some .always | _ => none

/-- Code of a test. -/
def testCode : Test → Nat
  | .eq => 0 | .ge => 1 | .le => 2 | .any => 3 | .all => 4 | .fresh => 5 | .gate => 6 | .always => 7

/-- Quality code of a view (R73). -/
def viewCode : ViewQuality → Nat
  | .stored .good => 0 | .stored .clamped => 1 | .stored (.suspect .short) => 2 | .stored (.suspect .opened) => 3
  | .stored (.suspect .feed) => 4 | .stored .stale => 5 | .stored .absent => 6 | .forced => 7

/-- An optional one-byte index: 0xFF absent (R76). -/
def optByte (n k : Nat) : Option (Option (Fin n)) := if k = 0xFF then some none else (finOf n k).map some

/-- An optional two-byte index: 0xFFFF absent (R76). -/
def optWord (n k : Nat) : Option (Option (Fin n)) := if k = 0xFFFF then some none else (finOf n k).map some

/-- A chain target: absent when its line byte holds 0xFF (R76); slot 0 to 15 on SP and CP, 2 on L (R83). -/
def chainOf (line slot : Nat) : Option (Option ChainTarget) :=
  match line with
  | 0 => (finOf 16 slot).map fun k => some (.sp k)
  | 1 => (finOf 16 slot).map fun k => some (.cp k)
  | 3 => if slot = 2 then some (some .l) else none
  | 0xFF => some none
  | _ => none

/-- A signal address of five bytes (R76, R8). -/
def addrOf (bs : List Byte) (at' : Nat) : Option SigAddr := do
  let base ← finOf 512 (wordAt bs at')
  let selector ← optWord 512 (wordAt bs (at' + 2))
  let scale ← scaleOf (byteAt bs (at' + 4))
  pure ⟨base, selector, scale⟩

/-- An optional signal address: absent when its base field holds 0xFFFF (R76, log 17). -/
def optAddrOf (bs : List Byte) (at' : Nat) : Option (Option SigAddr) :=
  if wordAt bs at' = 0xFFFF then some none else (addrOf bs at').map some

/-- A timing field clamped to the nearer end of its range, and whether it needed the clamp (R156). -/
def clampNat (lo hi v : Nat) : Nat × Bool := (max lo (min hi v), decide (v < lo) || decide (hi < v))

/-- A timing field of a record in which it is used, or stored as given where it is not (R156). -/
def clampIf (used : Bool) (lo hi v : Nat) : Nat × Bool := if used then clampNat lo hi v else (v, false)

/-! ### Records as written (R155 steps 4 to 6). `none` is the refusal RANGE; the flag says that a field was clamped. -/

/-- AREA record: 7 bytes (R6). -/
def areaOf? (bs : List Byte) : Option AreaEntry := do
  if bs.length < 7 then none
  let enabled ← flagOf (byteAt bs 0)
  let first ← finOf 512 (wordAt bs 1)
  let last ← finOf 512 (wordAt bs 3)
  let owner ← ownerOf (byteAt bs 5)
  let forceable ← flagOf (byteAt bs 6)
  pure ⟨enabled, first, last, owner, forceable⟩

/-- LINE record: 5 bytes (R82). Entry 0 uses both timing fields, entry 1 the cycle period, entry 2 neither; a field that is not used is
stored as given (R156, log 15). -/
def lineOf? (i : Fin 3) (bs : List Byte) : Option (LineEntry × Bool) := do
  if bs.length < 5 then none
  let enabled ← flagOf (byteAt bs 0)
  let rate ← rateOf (byteAt bs 1)
  let period := clampIf (i != 2) 2 100 (byteAt bs 2)
  let search := clampIf (i == 0) 20 500 (wordAt bs 3)
  pure (⟨enabled, rate, period.1, search.1⟩, period.2 || search.2)

/-- PROFILE record: 3 bytes (R105). -/
def profileOf? (bs : List Byte) : Option Profile := do
  if bs.length < 3 then none
  let enabled ← flagOf (byteAt bs 0)
  pure ⟨enabled, BitVec.ofNat 16 (wordAt bs 1)⟩

/-- R84: the node address of a master record: 1 to 30, or 31 in an OUT record. -/
def nodeOf (d : Direction) (k : Nat) : Option (BitVec 5) :=
  match d with
  | .inbound => if 1 ≤ k ∧ k ≤ 30 then some (BitVec.ofNat 5 k) else none
  | .outbound => if 1 ≤ k ∧ k ≤ 31 then some (BitVec.ofNat 5 k) else none

/-- A number within 0 to `hi` (R155 step 5). -/
def upTo (hi k : Nat) : Option Nat := if k ≤ hi then some k else none

/-- SLOT record of a master slot: 14 bytes (R83, R84). -/
def masterOf? (bs : List Byte) : Option (MasterSlot × Bool) := do
  if bs.length < 14 then none
  let enabled ← flagOf (byteAt bs 0)
  let direction ← directionOf (byteAt bs 1)
  let tag ← upTo 63 (byteAt bs 2)
  let node ← nodeOf direction (byteAt bs 3)
  let length ← upTo 16 (byteAt bs 4)
  let window := clampIf (direction == .inbound) 20 1000 (wordAt bs 5)
  let limit := clampIf (direction == .inbound) 1 15 (byteAt bs 7)
  let first ← upTo 383 (wordAt bs 8)
  let count ← upTo 24 (byteAt bs 10)
  let once ← flagOf (byteAt bs 11)
  let chain ← chainOf (byteAt bs 12) (byteAt bs 13)
  pure (⟨enabled, direction, BitVec.ofNat 6 tag, node, length, window.1, limit.1, first, count, once, chain⟩, window.2 || limit.2)

/-- SLOT record of a festoon slot: 11 bytes (R120). -/
def festoonOf? (bs : List Byte) : Option (FestoonSlot × Bool) := do
  if bs.length < 11 then none
  let enabled ← flagOf (byteAt bs 0)
  let direction ← directionOf (byteAt bs 1)
  let tag ← upTo 63 (byteAt bs 2)
  let length ← upTo 16 (byteAt bs 3)
  let first ← upTo 383 (wordAt bs 4)
  let count ← upTo 24 (byteAt bs 6)
  let stale := clampIf (direction == .inbound) 5 1000 (wordAt bs 7)
  let chain ← chainOf (byteAt bs 9) (byteAt bs 10)
  pure (⟨enabled, direction, BitVec.ofNat 6 tag, length, first, count, stale.1, chain⟩, stale.2)

/-- PLACEMENT record: 13 bytes (R20, R76). -/
def placementOf? (bs : List Byte) : Option Placement := do
  if bs.length < 13 then none
  let direction ← directionOf (byteAt bs 0)
  let width ← upTo 16 (byteAt bs 2)
  if width = 0 then none
  let signed ← flagOf (byteAt bs 3)
  let addr ← addrOf bs 4
  let conversion ← optByte 64 (byteAt bs 9)
  let gate ← optByte 32 (byteAt bs 10)
  pure ⟨direction, byteAt bs 1, width, signed, addr, conversion, gate, BitVec.ofNat 16 (wordAt bs 11)⟩

/-- CONVERSION record: 12 bytes (R34). -/
def conversionOf? (bs : List Byte) : Option Conversion := do
  if bs.length < 12 then none
  let enabled ← flagOf (byteAt bs 0)
  let s ← upTo 15 (byteAt bs 5)
  if intAt bs 10 < intAt bs 8 then none
  pure ⟨enabled, intAt bs 1, intAt bs 3, s, intAt bs 6, intAt bs 8, intAt bs 10⟩

/-- GATE record, entries 0 to 31: 14 bytes (R40, R41). -/
def gateOf? (bs : List Byte) : Option (Gate × Bool) := do
  if bs.length < 14 then none
  let enabled ← flagOf (byteAt bs 0)
  let count ← upTo 8 (byteAt bs 1)
  let k := clampNat 1 15 (byteAt bs 2)
  let forced ← flagOf (byteAt bs 3)
  let latching ← flagOf (byteAt bs 4)
  let rearm ← optAddrOf bs 5
  let output ← finOf 512 (wordAt bs 10)
  let chain ← chainOf (byteAt bs 12) (byteAt bs 13)
  pure (⟨enabled, count, k.1, forced, latching, rearm, output, chain⟩, k.2)

/-- TERM record: 9 bytes (R42, R76). -/
def termOf? (bs : List Byte) : Option Term := do
  if bs.length < 9 then none
  let addr ← addrOf bs 0
  let test ← testOf (byteAt bs 5)
  let negate ← flagOf (byteAt bs 6)
  pure ⟨addr, test, negate, BitVec.ofNat 16 (wordAt bs 7)⟩

/-- TROLLEY record of a channel: 2 bytes (R130). -/
def channelOf? (bs : List Byte) : Option Channel := do
  if bs.length < 2 then none
  let enabled ← flagOf (byteAt bs 0)
  let openCheck ← flagOf (byteAt bs 1)
  pure ⟨enabled, openCheck⟩

/-- TROLLEY record of an L slot: 3 bytes (R130). -/
def lSlotOf? (bs : List Byte) : Option LSlot := do
  if bs.length < 3 then none
  let first ← upTo 383 (wordAt bs 0)
  let count ← upTo 24 (byteAt bs 2)
  pure ⟨first, count⟩

/-- A record of one timing byte: GATE entry 32, TROLLEY inputs and scan (R41, R130). -/
def timingOf? (lo hi : Nat) (bs : List Byte) : Option (Nat × Bool) :=
  if bs.length < 1 then none else some (clampNat lo hi (byteAt bs 0))

/-- FEED record: 7 bytes (R143). -/
def feedOf? (bs : List Byte) : Option (FeedEntry × Bool) := do
  if bs.length < 7 then none
  let enabled ← flagOf (byteAt bs 0)
  let low ← upTo 4095 (wordAt bs 1)
  let recover ← upTo 4095 (wordAt bs 3)
  if recover < low then none
  let nL := clampNat 1 15 (byteAt bs 5)
  let nG := clampNat 1 15 (byteAt bs 6)
  pure (⟨enabled, low, recover, nL.1, nG.1⟩, nL.2 || nG.2)

/-- WATCH record: 5 bytes (R174). -/
def watchOf? (bs : List Byte) : Option WatchEntry := do
  if bs.length < 5 then none
  let enabled ← flagOf (byteAt bs 0)
  let signal ← finOf 512 (wordAt bs 1)
  let deadband ← upTo 32767 (wordAt bs 3)
  pure ⟨enabled, signal, deadband⟩

/-! ### The tables after a write -/

/-- An entry written without a clamp. -/
def plain {α : Type} (x : Option α) : Option (α × Bool) := x.map fun a => (a, false)

/-- The tables with one entry written, and whether a field was clamped; none is the refusal RANGE (R155 steps 3 to 6). -/
def Tables.write (t : Tables) (table : TableId) (i : Nat) (bs : List Byte) : Option (Tables × Bool) :=
  match table with
  | .area => do let k ← finOf 8 i; let a ← areaOf? bs; pure ({ t with areas := t.areas.set k a }, false)
  | .line => do let k ← finOf 3 i; let a ← lineOf? k bs; pure ({ t with lines := t.lines.set k a.1 }, a.2)
  | .profile => do let k ← finOf 4 i; let a ← profileOf? bs; pure ({ t with profiles := t.profiles.set k a }, false)
  | .slot =>
    if i < 80 then do let k ← finOf 80 i; let a ← masterOf? bs; pure ({ t with masterSlots := t.masterSlots.set k a.1 }, a.2)
    else do let k ← finOf 16 (i - 80); let a ← festoonOf? bs; pure ({ t with festoonSlots := t.festoonSlots.set k a.1 }, a.2)
  | .placement => do let k ← finOf 384 i; let a ← placementOf? bs; pure ({ t with placements := t.placements.set k a }, false)
  | .conversion => do let k ← finOf 64 i; let a ← conversionOf? bs; pure ({ t with conversions := t.conversions.set k a }, false)
  | .gate =>
    if i = 32 then do let a ← timingOf? 1 20 bs; pure ({ t with sweepPeriod := a.1 }, a.2)
    else do let k ← finOf 32 i; let a ← gateOf? bs; pure ({ t with gates := t.gates.set k a.1 }, a.2)
  | .term => do let k ← finOf 256 i; let a ← termOf? bs; pure ({ t with terms := t.terms.set k a }, false)
  | .trolley =>
    if i < 16 then do let k ← finOf 16 i; let a ← channelOf? bs; pure ({ t with channels := t.channels.set k a }, false)
    else if i < 32 then do
      let k ← finOf 16 (i - 16); let a ← timingOf? 1 7 bs; pure ({ t with inputQ := t.inputQ.set k a.1 }, a.2)
    else match i with
      | 32 => (lSlotOf? bs).map fun a => ({ t with l0 := a }, false)
      | 33 => (lSlotOf? bs).map fun a => ({ t with l1 := a }, false)
      | 34 => (lSlotOf? bs).map fun a => ({ t with l2 := a }, false)
      | 35 => (timingOf? 2 50 bs).map fun a => ({ t with scanPeriod := a.1 }, a.2)
      | _ => none
  | .feed => do let k ← finOf 2 i; let a ← feedOf? bs; pure ({ t with feeds := t.feeds.set k a.1 }, a.2)
  | .watch => do let k ← finOf 8 i; let a ← watchOf? bs; pure ({ t with watch := t.watch.set k a }, false)

/-! ### Records as read: written fields, then runtime fields (R76, R167) -/

/-- One byte. -/
def oneByte (n : Nat) : List Byte := leBytes 1 n

/-- Two bytes, little-endian. -/
def twoBytes (n : Nat) : List Byte := leBytes 2 n

/-- A flag. -/
def flagBytes (b : Bool) : List Byte := [flagByte b]

/-- An optional two-byte index (R76). -/
def optWordBytes {n : Nat} (x : Option (Fin n)) : List Byte :=
  match x with
  | none => twoBytes 0xFFFF
  | some i => twoBytes i.val

/-- An optional one-byte index (R76). -/
def optByteBytes {n : Nat} (x : Option (Fin n)) : List Byte :=
  match x with
  | none => oneByte 0xFF
  | some i => oneByte i.val

/-- A signal address (R76). -/
def addrBytes (a : SigAddr) : List Byte := twoBytes a.base.val ++ optWordBytes a.selector ++ oneByte a.scale.factor

/-- An optional signal address: all ones of its width when absent (R76, log 17). -/
def optAddrBytes : Option SigAddr → List Byte
  | none => twoBytes 0xFFFF ++ twoBytes 0xFFFF ++ oneByte 0xFF
  | some a => addrBytes a

/-- A chain target (R76). -/
def chainBytes : Option ChainTarget → List Byte
  | none => [0xFF, 0xFF]
  | some (.sp k) => [0, BitVec.ofNat 8 k.val]
  | some (.cp k) => [1, BitVec.ofNat 8 k.val]
  | some .l => [3, 2]

/-- AREA (R6). -/
def areaBytes (a : AreaEntry) : List Byte :=
  flagBytes a.enabled ++ twoBytes a.first.val ++ twoBytes a.last.val ++ oneByte (ownerCode a.owner) ++ flagBytes a.forceable

/-- LINE (R82). -/
def lineBytes (e : LineEntry) : List Byte :=
  flagBytes e.enabled ++ oneByte (rateCode e.rate) ++ oneByte e.cyclePeriod ++ twoBytes e.searchInterval

/-- PROFILE, written part (R105). -/
def profileBytes (p : Profile) : List Byte := flagBytes p.enabled ++ twoBytes p.typeCode.toNat

/-- SLOT of a master slot, written part (R83). -/
def masterBytes (m : MasterSlot) : List Byte :=
  flagBytes m.enabled ++ oneByte (directionCode m.direction) ++ oneByte m.tag.toNat ++ oneByte m.node.toNat ++ oneByte m.length ++
  twoBytes m.window ++ oneByte m.missLimit ++ twoBytes m.first ++ oneByte m.count ++ flagBytes m.once ++ chainBytes m.chain

/-- SLOT of a festoon slot, written part (R120). -/
def festoonBytes (f : FestoonSlot) : List Byte :=
  flagBytes f.enabled ++ oneByte (directionCode f.direction) ++ oneByte f.tag.toNat ++ oneByte f.length ++ twoBytes f.first ++
  oneByte f.count ++ twoBytes f.staleLimit ++ chainBytes f.chain

/-- PLACEMENT (R76). -/
def placementBytes (p : Placement) : List Byte :=
  oneByte (directionCode p.direction) ++ oneByte p.offset ++ oneByte p.width ++ flagBytes p.signed ++ addrBytes p.addr ++
  optByteBytes p.conversion ++ optByteBytes p.gate ++ twoBytes p.safe.toNat

/-- CONVERSION (R34). -/
def conversionBytes (c : Conversion) : List Byte :=
  flagBytes c.enabled ++ leSigned c.o ++ leSigned c.g ++ oneByte c.s ++ leSigned c.c ++ leSigned c.lo ++ leSigned c.hi

/-- GATE, written part (R40). -/
def gateBytes (g : Gate) : List Byte :=
  flagBytes g.enabled ++ oneByte g.termCount ++ oneByte g.k ++ flagBytes g.acceptForced ++ flagBytes g.latching ++
  optAddrBytes g.rearm ++ twoBytes g.output.val ++ chainBytes g.chain

/-- TERM (R76). -/
def termBytes (t : Term) : List Byte :=
  addrBytes t.addr ++ oneByte (testCode t.test) ++ flagBytes t.negate ++ twoBytes t.k.toNat

/-- TROLLEY channel, written part (R130). -/
def channelBytes (c : Channel) : List Byte := flagBytes c.enabled ++ flagBytes c.openCheck

/-- TROLLEY L slot, written part (R130). -/
def lSlotBytes (l : LSlot) : List Byte := twoBytes l.first ++ oneByte l.count

/-- FEED, written part (R143). -/
def feedBytes (f : FeedEntry) : List Byte :=
  flagBytes f.enabled ++ twoBytes f.low ++ twoBytes f.recover ++ oneByte f.nL ++ oneByte f.nG

/-- WATCH, written part (R174). -/
def watchBytes (w : WatchEntry) : List Byte := flagBytes w.enabled ++ twoBytes w.signal.val ++ twoBytes w.deadband

/-- Status code of a master slot: the position in its list (R76). -/
def slotStatusCode : SlotStatus → Nat
  | .disabled => 0 | .awaiting => 1 | .live => 2 | .missing => 3 | .lost => 4

/-- Status code of a festoon slot: the position in its own list (R76, log 16). -/
def festoonStatusCode : FestoonStatus → Nat
  | .disabled => 0 | .awaiting => 1 | .live => 2 | .lost => 3

/-- State code of a gate (R41). -/
def gateStateCode : GateState → Nat
  | .closed => 0 | .rising => 1 | .opened => 2 | .locked => 3

/-- State code of a channel (R130). -/
def channelStateCode : ChannelState → Nat
  | .normal => 0 | .opened => 1

/-- State code of a feed monitor (R143). -/
def feedStateCode : FeedState → Nat
  | .good => 0 | .dipping => 1 | .low => 2 | .recovering => 3

/-- Runtime fields of a master slot (R84). -/
def masterRtBytes (r : MasterRt) : List Byte :=
  oneByte (slotStatusCode r.status) ++ oneByte r.misses ++ flagBytes r.armed ++ twoBytes r.arrival.toNat

/-- Runtime fields of a festoon slot (R120). -/
def festoonRtBytes (r : FestoonRt) : List Byte := oneByte (festoonStatusCode r.status) ++ twoBytes r.arrival.toNat

/-- Runtime fields of a gate (R41). -/
def gateRtBytes (r : GateRt) : List Byte := oneByte (gateStateCode r.state) ++ oneByte r.count

/-- Runtime fields of a channel (R130). -/
def channelRtBytes (r : ChannelRt) : List Byte :=
  oneByte (channelStateCode r.state) ++ oneByte r.openCount ++ twoBytes r.last.toNat

/-- Runtime fields of a digital input (R130). -/
def inputRtBytes (r : InputRt) : List Byte := flagBytes r.level ++ oneByte r.changes

/-- Runtime fields of a feed monitor (R143). -/
def feedRtBytes (r : FeedRt) : List Byte := oneByte (feedStateCode r.state) ++ oneByte r.count

/-- Runtime fields of a watch entry (R174); the bytes of an unset view are free (log 14). -/
def watchLastBytes (draw entry : Nat) : Option (Int × ViewQuality) → List Byte
  | none => oneByte 0 ++ leBytes 3 (Config.unsetViewBits draw entry).toNat
  | some (v, q) => oneByte 1 ++ leSigned v ++ oneByte (viewCode q)

/-- R167: the record of entry `i` of a table as READ_TABLE returns it, none past the table's last entry. -/
def State.recordBytes (s : State) (table : TableId) (i : Nat) : Option (List Byte) :=
  match table with
  | .area => (s.tables.areas.get? i).map areaBytes
  | .line => (s.tables.lines.get? i).map lineBytes
  | .profile => (finOf 4 i).map fun p =>
      profileBytes (s.tables.profiles.get p) ++ flagBytes (s.attached == some p) ++ leBytes 4 (s.serials.get p).toNat
  | .slot =>
    if i < 80 then (finOf 80 i).map fun e => masterBytes (s.slotRec e) ++ masterRtBytes (s.masterRt.get e)
    else (finOf 16 (i - 80)).map fun k => festoonBytes (s.tables.festoonSlots.get k) ++ festoonRtBytes (s.fp.slots.get k)
  | .placement => (s.tables.placements.get? i).map placementBytes
  | .conversion => (s.tables.conversions.get? i).map conversionBytes
  | .gate =>
    if i = 32 then some (oneByte s.tables.sweepPeriod)
    else (finOf 32 i).map fun g => gateBytes (s.tables.gates.get g) ++ gateRtBytes (s.gateRt.get g)
  | .term => (s.tables.terms.get? i).map termBytes
  | .trolley =>
    if i < 16 then (finOf 16 i).map fun c => channelBytes (s.tables.channels.get c) ++ channelRtBytes (s.tio.channels.get c)
    else if i < 32 then (finOf 16 (i - 16)).map fun c => oneByte (s.tables.inputQ.get c) ++ inputRtBytes (s.tio.inputs.get c)
    else match i with
      | 32 => some (lSlotBytes s.tables.l0)
      | 33 => some (lSlotBytes s.tables.l1)
      | 34 => some (lSlotBytes s.tables.l2 ++ oneByte s.tio.relays.toNat)
      | 35 => some (oneByte s.tables.scanPeriod)
      | _ => none
  | .feed => (finOf 2 i).map fun d => feedBytes (s.tables.feeds.get d) ++ feedRtBytes (s.feedRt.get d)
  | .watch => (finOf 8 i).map fun w => watchBytes (s.tables.watch.get w) ++ watchLastBytes s.freeDraws w.val (s.watchLast.get w)

/-- R167: whole records from entry `i` upward: up to `count`, up to the table's last entry, up to `room` bytes. -/
def State.collect (s : State) (table : TableId) : (count i room : Nat) → List (List Byte)
  | 0, _, _ => []
  | count + 1, i, room =>
    match s.recordBytes table i with
    | none => []
    | some r => if r.length ≤ room then r :: s.collect table count (i + 1) (room - r.length) else []

end Sys2Proof.Machine
end

