-- ==== Sys2Proof/Machine/Management.lean ====
section
/-! DEFINITION. Management commands: taking a command and fixing its reply (R72, R126, R164), and each command's checks, effect and reply
data (R15 to R17, R155, R158, R161, R162, R165 to R173). -/

namespace Sys2Proof.Machine

/-! ### Replies -/

/-- Statuses of a reply, in the order of R72. -/
inductive Status where
  | done | doneClamped | state | range | area | full | invalid | unknown
  deriving DecidableEq, Repr

/-- Status code (R72). -/
def statusCode : Status → Nat
  | .done => 0 | .doneClamped => 1 | .state => 2 | .range => 3 | .area => 4 | .full => 5 | .invalid => 6 | .unknown => 7

/-- What a command leaves: the part, its reply status and its reply data. -/
structure Served where
  work : Work
  status : Status
  data : List Byte

/-- A refusal, with no effect and no data (R164). -/
def Work.refuse (st : Status) (w : Work) : Served := ⟨w, st, []⟩

/-- R126, R67: the reply becomes due, its content and rate fixed. -/
def State.replyDue (tag : BitVec 6) (payload : List Byte) (rate : Rate) (s : State) : State :=
  s.onFp fun p => { p with due := some (.reply tag payload rate) }

/-- R126, R164: a command is taken at the end of its frame: the reception is judged and scored, the command acts, and its reply becomes
due at the rate that held before it (R67). -/
def State.serve (tag : BitVec 6) (code : Nat) (command : Work → Served) (s : State) : State :=
  let s1 := (s.beginReception.judged .fp).scoreGood .fp
  let r := command s1.work
  (r.work.on (State.replyDue tag (oneByte code ++ oneByte (statusCode r.status) ++ r.data) s1.fp.link.rate)).close

/-- R72: a request with fewer bytes than its command needs is refused RANGE. -/
def withRequest (need : Nat) (req : List Byte) (command : Work → Served) (w : Work) : Served :=
  if req.length < need then w.refuse .range else command w

/-- R126: a management row: the frame is received only by a port that receives, and only if it fits a frame. -/
def State.manage (s : State) (tag : BitVec 6) (code : Nat) (need : Nat) (req : List Byte) (command : Work → Served) :
    Host.Outcome State Fault Refusal :=
  s.occurs (s.festoonReceives && requestFits req) (s.serve tag code (withRequest need req command))

/-! ### STATUS -/

/-- State code of a master port (R74). -/
def portStateCode : PortState → Nat
  | .off => 0 | .search => 1 | .cycling => 2 | .held => 3 | .detached => 4

/-- Health code (R74). -/
def healthCode : Health → Nat
  | .active => 0 | .degraded => 1

/-- Operating state code (R74). -/
def operatingCode : Operating → Nat
  | .config => 0 | .run => 1

/-- Attached profile byte: 0xFF when none (R74). -/
def profileByte : Option ProfileIx → Nat
  | none => 0xFF
  | some p => p.val

/-- R74, R165: the 16 bytes of STATUS. -/
def State.statusBytes (s : State) : List Byte :=
  oneByte (operatingCode s.operating) ++ flagBytes s.validated ++ oneByte (portStateCode s.sp.state) ++
  oneByte (healthCode s.sp.link.health) ++ oneByte (profileByte s.attached) ++ oneByte (portStateCode s.cp.state) ++
  oneByte (healthCode s.cp.link.health) ++ oneByte (healthCode s.fp.link.health) ++
  oneByte (feedStateCode (s.feed .spreader).state) ++ oneByte (feedStateCode (s.feed .cab).state) ++
  oneByte s.events.length ++ flagBytes s.ovf ++ oneByte s.forceCount ++ twoBytes Config.partCode ++ oneByte Config.revision

/-- STATUS (R165). -/
def execStatus (tag : BitVec 6) (req : List Byte) (s : State) : Host.Outcome State Fault Refusal :=
  s.manage tag 0x01 0 req fun w => ⟨w, .done, w.st.statusBytes⟩

/-! ### ENTER_CONFIG, ENTER_RUN, RESTART -/

/-- R161: ENTER_CONFIG. -/
def Work.enterConfig (w : Work) : Served :=
  match w.st.operating with
  | .config => ⟨w, .done, []⟩
  | .run => ⟨w.on State.toConfig, .done, []⟩

/-- ENTER_CONFIG (R161, R166). -/
def execEnterConfig (tag : BitVec 6) (req : List Byte) (s : State) : Host.Outcome State Fault Refusal :=
  s.manage tag 0x02 0 req Work.enterConfig

/-- The data of an INVALID reply: table id, entry index, reason code (R73). -/
def failureBytes (f : Failure) : List Byte := oneByte (tableCode f.table) ++ twoBytes f.entry ++ oneByte (reasonCode f.reason)

/-- R158: ENTER_RUN. -/
def Work.enterRun (w : Work) : Served :=
  match w.st.operating with
  | .run => w.refuse .state
  | .config =>
    match w.st.tables.validate with
    | some f => ⟨w, .invalid, failureBytes f⟩
    | none => ⟨w.on fun s => State.toRun { s with validated := true }, .done, []⟩

/-- ENTER_RUN (R158, R166). -/
def execEnterRun (tag : BitVec 6) (req : List Byte) (s : State) : Host.Outcome State Fault Refusal :=
  s.manage tag 0x03 0 req Work.enterRun

/-- RESTART (R162, R166): the restart is pending until its reply has ended or has been discarded. -/
def execRestart (tag : BitVec 6) (req : List Byte) (s : State) : Host.Outcome State Fault Refusal :=
  s.manage tag 0x04 0 req fun w => ⟨w.on fun s => s.onFp fun p => { p with restartPending := true }, .done, []⟩

/-! ### READ_TABLE, WRITE_TABLE -/

/-- Number of entries of a table (R167). -/
def tableSize : TableId → Nat
  | .area => 8 | .line => 3 | .profile => 4 | .slot => 96 | .placement => 384 | .conversion => 64 | .gate => 33 | .term => 256
  | .trolley => 36 | .feed => 2 | .watch => 8

/-- A read of the WATCH table uses one draw of the free value (log 14). -/
def State.drawWatch (table : TableId) (s : State) : State :=
  match table with
  | .watch => { s with freeDraws := s.freeDraws + 1 }
  | .area | .line | .profile | .slot | .placement | .conversion | .gate | .term | .trolley | .feed => s

/-- R167: READ_TABLE. -/
def Work.readTable (req : List Byte) (w : Work) : Served :=
  match tableOfCode (byteAt req 0) with
  | none => w.refuse .range
  | some table =>
    let first := wordAt req 1
    let count := byteAt req 3
    if tableSize table ≤ first then w.refuse .range
    else
      let records := w.st.collect table count first Config.recordRoom
      ⟨w.on (State.drawWatch table), if records.length = count then .done else .doneClamped,
        oneByte (tableCode table) ++ twoBytes first ++ oneByte records.length ++ records.flatten⟩

/-- READ_TABLE (R167). -/
def execReadTable (tag : BitVec 6) (req : List Byte) (s : State) : Host.Outcome State Fault Refusal :=
  s.manage tag 0x05 4 req (Work.readTable req)

/-- R6: the records that leave the PANEL areas when the plan becomes `t` are cleared. -/
def State.leavePanel (t : Tables) (s : State) : State :=
  { s with image := s.image.mapIdx fun i r => if s.tables.ownedBy .panel i && !t.ownedBy .panel i then r.cleared else r }

/-- R155, R174: the part after an accepted write: a WATCH write unsets the entry's last-reported view, any other clears the validated
flag, and an AREA write clears what leaves the PANEL areas. -/
def State.acceptWrite (table : TableId) (i : Nat) (t : Tables) (s : State) : State :=
  match table with
  | .watch => match finOf 8 i with
    | some k => { s with tables := t, watchLast := s.watchLast.set k none }
    | none => { s with tables := t }
  | .area => { s.leavePanel t with tables := t, validated := false }
  | .line | .profile | .slot | .placement | .conversion | .gate | .term | .trolley | .feed => { s with tables := t, validated := false }

/-- R155: WRITE_TABLE: the checks in their order, then the write. -/
def Work.writeTable (req : List Byte) (w : Work) : Served :=
  match tableOfCode (byteAt req 0) with
  | none => w.refuse .range
  | some table =>
    if w.st.operating == .run && table != .watch then w.refuse .state
    else
      let i := wordAt req 1
      match w.st.tables.write table i (req.drop 3) with
      | none => w.refuse .range
      | some (t, clamped) =>
        ⟨w.on (State.acceptWrite table i t), if clamped then .doneClamped else .done, oneByte (tableCode table) ++ twoBytes i⟩

/-- WRITE_TABLE (R155, R168). -/
def execWriteTable (tag : BitVec 6) (req : List Byte) (s : State) : Host.Outcome State Fault Refusal :=
  s.manage tag 0x06 3 req (Work.writeTable req)

/-! ### Signals -/

/-- The bytes of a view in a READ_SIGNALS reply (R73). -/
def viewBytes (v : View) : List Byte := leSigned v.value ++ oneByte (viewCode v.quality) ++ twoBytes v.age

/-- R169: the views of up to `n` signals from index `first` upward. -/
def State.viewsFrom (s : State) (first n : Nat) : List View :=
  (List.range n).filterMap fun k => (s.image.get? (first + k)).map SigRec.view

/-- R169: READ_SIGNALS. -/
def Work.readSignals (req : List Byte) (w : Work) : Served :=
  let first := wordAt req 0
  let count := byteAt req 2
  if 512 ≤ first then w.refuse .range
  else
    let views := w.st.viewsFrom first (min count Config.signalsPerReply)
    ⟨w, if views.length = count then .done else .doneClamped,
      twoBytes first ++ oneByte views.length ++ views.flatMap viewBytes⟩

/-- READ_SIGNALS (R169). -/
def execReadSignals (tag : BitVec 6) (req : List Byte) (s : State) : Host.Outcome State Fault Refusal :=
  s.manage tag 0x07 3 req (Work.readSignals req)

/-- R15: WRITE_SIGNAL of an index and a value. -/
def Work.writeSignal (index : Nat) (value : Int) (w : Work) : Served :=
  match finOf 512 index with
  | none => w.refuse .range
  | some i =>
    if w.st.tables.ownedBy .panel i then ⟨w.changeAt i (SigRec.written value .good), .done, []⟩ else w.refuse .area

/-- WRITE_SIGNAL (R15). -/
def execWriteSignal (tag : BitVec 6) (req : List Byte) (s : State) : Host.Outcome State Fault Refusal :=
  s.manage tag 0x08 4 req (Work.writeSignal (wordAt req 0) (intAt req 2))

/-- A record with a force part (R4). -/
def SigRec.forcedTo (v : Int) (r : SigRec) : SigRec := { r with force := some v }

/-- A record without a force part (R17). -/
def SigRec.released (r : SigRec) : SigRec := { r with force := none }

/-- R16: FORCE of an index and a value. -/
def Work.force (index : Nat) (value : Int) (w : Work) : Served :=
  match w.st.operating with
  | .config => w.refuse .state
  | .run =>
    match finOf 512 index with
    | none => w.refuse .range
    | some i =>
      if !w.st.tables.forceable i then w.refuse .area
      else if (w.st.image.get i).force.isNone && Config.forceLimit ≤ w.st.forceCount then w.refuse .full
      else ⟨w.changeAt i (SigRec.forcedTo value), .done, []⟩

/-- FORCE (R16). -/
def execForce (tag : BitVec 6) (req : List Byte) (s : State) : Host.Outcome State Fault Refusal :=
  s.manage tag 0x09 4 req (Work.force (wordAt req 0) (intAt req 2))

/-- R17: RELEASE of an index; a record without a force part is not touched. -/
def Work.release (index : Nat) (w : Work) : Served :=
  match finOf 512 index with
  | none => w.refuse .range
  | some i => ⟨if (w.st.image.get i).force.isSome then w.changeAt i SigRec.released else w, .done, []⟩

/-- RELEASE (R17). -/
def execRelease (tag : BitVec 6) (req : List Byte) (s : State) : Host.Outcome State Fault Refusal :=
  s.manage tag 0x0A 2 req (Work.release (wordAt req 0))

/-- R17: RELEASE_ALL. -/
def Work.releaseAll (w : Work) : Served := ⟨w.change (fun _ r => r.force.isSome) SigRec.released, .done, []⟩

/-- RELEASE_ALL (R17). -/
def execReleaseAll (tag : BitVec 6) (req : List Byte) (s : State) : Host.Outcome State Fault Refusal :=
  s.manage tag 0x0B 0 req Work.releaseAll

/-! ### SEND_ONCE -/

/-- The master line of a SEND_ONCE line code (R73). -/
def onceLine : Nat → Option MasterLine
  | 0 => some .sp | 1 => some .cp | _ => none

/-- R170: SEND_ONCE of a line code and a slot. -/
def Work.sendOnce (line slot : Nat) (w : Work) : Served :=
  match w.st.operating with
  | .config => w.refuse .state
  | .run =>
    match onceLine line, finOf 16 slot with
    | some l, some k =>
      match w.st.activeEntry l k with
      | none => w.refuse .state
      | some e =>
        let m := w.st.slotRec e
        if m.enabled && m.direction == .outbound && m.once then
          ⟨w.on fun s => s.onSlot e fun rt => { rt with armed := true }, .done, []⟩
        else w.refuse .range
    | _, _ => w.refuse .range

/-- SEND_ONCE (R170). -/
def execSendOnce (tag : BitVec 6) (req : List Byte) (s : State) : Host.Outcome State Fault Refusal :=
  s.manage tag 0x0C 2 req (Work.sendOnce (byteAt req 0) (byteAt req 1))

/-! ### READ_EVENTS -/

/-- Kind code of an event (R75). -/
def eventCode : Event → Nat
  | .gateOpened _ => 1 | .gateClosed _ _ => 2 | .slotLost _ _ => 3 | .slotRegained _ _ => 4 | .lineDegraded _ _ => 5
  | .lineRecovered _ _ => 6 | .lineDetached _ => 7 | .spreaderAttached _ _ => 8 | .spreaderUnknown _ => 9
  | .spreaderDetached _ _ => 10 | .feedLow _ _ => 11 | .feedGood _ _ => 12 | .inputOpen _ _ => 13 | .inputRestored _ _ => 14
  | .cycleOverrun _ => 15 | .watch _ _ _ => 16

/-- Feed code in a subject (R75). -/
def feedCode : Feed → Nat
  | .spreader => 0 | .cab => 1

/-- The two subject bytes and the value of an event (R75). -/
def eventFields : Event → Nat × Nat × Int
  | .gateOpened g => (g.val, 0, 0)
  | .gateClosed g locked => (g.val, 0, locked.toInt)
  | .slotLost l k => (lineCode l, k.val, 0)
  | .slotRegained l k => (lineCode l, k.val, 0)
  | .lineDegraded l score => (lineCode l, 0, score)
  | .lineRecovered l score => (lineCode l, 0, score)
  | .lineDetached l => (lineCode l, 0, 0)
  | .spreaderAttached p code => (p.val, 0, code.toNat)
  | .spreaderUnknown code => (0, 0, code.toNat)
  | .spreaderDetached p cause => (p.val, cause, 0)
  | .feedLow d r => (feedCode d, 0, r.toNat)
  | .feedGood d r => (feedCode d, 0, r.toNat)
  | .inputOpen c r => (c.val, 0, r.toNat)
  | .inputRestored c r => (c.val, 0, r.toNat)
  | .cycleOverrun l => (lineCode (masterLine l), 0, 0)
  | .watch w q v => (w.val, viewCode q, v)

/-- R75: the 7 bytes of an event record. -/
def eventBytes (r : EventRecord) : List Byte :=
  let f := eventFields r.event
  oneByte (eventCode r.event) ++ oneByte f.1 ++ oneByte f.2.1 ++ leSigned f.2.2 ++ twoBytes r.timestamp.toNat

/-- R173: the part after the oldest `n` records are removed; OVF is cleared if the queue is then empty. -/
def State.drain (n : Nat) (s : State) : State :=
  { s with events := s.events.drop n, ovf := s.ovf && !(s.events.drop n).isEmpty }

/-- R173: READ_EVENTS of a maximum count. -/
def Work.readEvents (maximum : Nat) (w : Work) : Served :=
  let n := min maximum Config.eventsPerReply
  let taken := w.st.events.take n
  ⟨w.on (State.drain n), if Config.eventsPerReply < maximum then .doneClamped else .done,
    oneByte taken.length ++ taken.flatMap eventBytes⟩

/-- READ_EVENTS (R173). -/
def execReadEvents (tag : BitVec 6) (req : List Byte) (s : State) : Host.Outcome State Fault Refusal :=
  s.manage tag 0x0D 1 req (Work.readEvents (byteAt req 0))

/-! ### UNKNOWN_COMMAND -/

/-- UNKNOWN_COMMAND (R72): an empty payload is answered with command code 0x00, an unknown code with that code. -/
def execUnknownCommand (tag : BitVec 6) (payload : List Byte) (s : State) : Host.Outcome State Fault Refusal :=
  s.occurs (s.festoonReceives && unknownPayload payload) (s.serve tag (byteAt payload 0) (Work.refuse .unknown))

end Sys2Proof.Machine
end

