-- ==== Sys2Proof/Machine/Search.lean ====
section
/-! DEFINITION. The commands of the Spreader Port's search (R107 to R111). -/

namespace Sys2Proof.Machine

/-- R107, R108: a HAIL begins, and the search timer starts with the search interval of LINE entry 0. -/
def State.sendHail (s : State) : State :=
  { s.send .sp hailFrame with hail := .sending, searchTimer := some (s.lineEntry .sp).searchInterval }

/-- FIRST_HAIL (R107). -/
def execFirstHail (s : State) : Host.Outcome State Fault Refusal :=
  s.occurs (s.sp.state == .search && s.hail == .firstDue) s.sendHail

/-- SEARCH_TIMER_EXPIRY (R107); an expiry never falls while a HAIL or its window is open (R108). -/
def execSearchTimerExpiry (s : State) : Host.Outcome State Fault Refusal :=
  s.occurs (s.sp.state == .search && s.searchTimer.isSome && s.hail == .waiting) s.sendHail

/-- HAIL_END (R108). -/
def execHailEnd (s : State) : Host.Outcome State Fault Refusal :=
  s.occurs (s.sp.state == .search && s.hail == .sending) { s.setPhase .sp .rested with hail := .window }

/-- SEARCH_WINDOW_EXPIRY (R108). -/
def execSearchWindowExpiry (s : State) : Host.Outcome State Fault Refusal :=
  s.occurs (s.sp.state == .search && s.hail == .window) { s with hail := .waiting }

/-- Type code of a HAIL_REPLY payload (R71). -/
def replyType (payload : List Byte) : BitVec 16 := BitVec.ofNat 16 (leNat (payload.take 2))

/-- Serial number of a HAIL_REPLY payload (R71). -/
def replySerial (payload : List Byte) : BitVec 32 := BitVec.ofNat 32 (leNat (payload.drop 2))

/-- R109: a valid reply is taken. -/
def State.takeReply (payload : List Byte) (s : State) : State :=
  match s.matchProfile (replyType payload) with
  | some p => s.attach p (replyType payload) (replySerial payload)
  | none => s.unknownReply (replyType payload)

/-- HAIL_REPLY_TAKEN (R109). -/
def execHailReplyTaken (f : Frame) (s : State) : Host.Outcome State Fault Refusal :=
  s.occurs (s.masterReceives .sp && s.validReply f) (((s.judged .sp).scoreGood .sp).takeReply f.payload)

end Sys2Proof.Machine
end

