-- ==== Sys2Proof/Machine/Trolley.lean ====
section
/-! DEFINITION. The Trolley I/O Unit: the scan (R131 to R137), L2 and the relays (R138, R139), the hand-over to the Feed Watch (R140). -/

namespace Sys2Proof.Machine

/-! ### Analog channels -/

/-- R132: an open reading. -/
def isOpenReading (c : Channel) (r : BitVec 12) : Bool := c.openCheck && decide (Config.openReading ≤ r.toNat)

/-- R133: the outcome of an enabled channel's reading. -/
def readingOutcome (c : Channel) (rt : ChannelRt) (r : BitVec 12) : ReadingOutcome :=
  if isOpenReading c r then
    match rt.state with
    | .opened => .opened
    | .normal => if 2 ≤ rt.openCount then .opened else .withheld
  else .delivered

/-- R132, R133: the runtime of an enabled channel after a scan. -/
def steppedChannel (c : Channel) (rt : ChannelRt) (r : BitVec 12) : ChannelRt :=
  match readingOutcome c rt r with
  | .delivered => ⟨.normal, 0, r⟩
  | .withheld => ⟨.normal, rt.openCount + 1, r⟩
  | .opened => ⟨.opened, 3, r⟩

/-- R133: the event of a channel's step. -/
def channelEvents (i : Fin 16) (before after : ChannelRt) : List Event :=
  match before.state, after.state with
  | .normal, .opened => [.inputOpen i after.last]
  | .opened, .normal => [.inputRestored i after.last]
  | .normal, .normal | .opened, .opened => []

/-- The channels after a scan: only enabled ones step (R133). -/
def State.steppedChannels (s : State) (readings : Tab (BitVec 12) 16) : Tab ChannelRt 16 :=
  s.tio.channels.mapIdx fun i rt =>
    let c := s.tables.channels.get i
    if c.enabled then steppedChannel c rt (readings.get i) else rt

/-- R133: the outcome of channel `n` at a scan, none for a disabled channel or a number past the last. -/
def State.outcomeAt (s : State) (readings : Tab (BitVec 12) 16) (n : Nat) : Option ReadingOutcome :=
  (finChannel n).bind fun i =>
    let c := s.tables.channels.get i
    if c.enabled then some (readingOutcome c (s.tio.channels.get i) (readings.get i)) else none
where
  /-- The channel of a number. -/
  finChannel (n : Nat) : Option (Fin 16) := if h : n < 16 then some ⟨n, h⟩ else none

/-! ### L0 and L1 -/

/-- R136: the L0 payload: the reading of each enabled channel in its 16-bit field, 0 for a disabled one. -/
def State.l0Payload (s : State) (readings : Tab (BitVec 12) 16) : List Byte :=
  (indices 16).flatMap fun i => leBytes 2 (if (s.tables.channels.get i).enabled then (readings.get i).toNat else 0)

/-- R136: the outcomes of an L0 placement's channels. -/
def placementOutcomes (outcome : Nat → Option ReadingOutcome) (p : Placement) : List (Option ReadingOutcome) :=
  (List.range 17).filterMap fun c =>
    if p.offset / 16 ≤ c ∧ c ≤ (p.offset + p.width - 1) / 16 then some (outcome c) else none

/-- R136: one L0 placement. -/
def Work.applyL0One (outcome : Nat → Option ReadingOutcome) (payload : Nat) (w : Work) (p : Placement) : Work :=
  let os := placementOutcomes outcome p
  if os.contains (some .opened) then w.changeAt p.addr.base (SigRec.marked (.suspect .opened))
  else if os.contains (some .withheld) then w
  else w.applyOne payload 32 p

/-- R136: the L0 placements, in ascending index. -/
def Work.applyL0 (outcome : Nat → Option ReadingOutcome) (payload : List Byte) (w : Work) : Work :=
  ((w.st.tables.lRun w.st.tables.l0).filter fun p => p.direction == .inbound).foldl
    (Work.applyL0One outcome (leNat payload)) w

/-- R134: one digital input after its sample is counted. -/
def countedInput (first : Bool) (q : Nat) (sample : Bool) (rt : InputRt) : InputRt :=
  if first then ⟨sample, 0⟩
  else if sample == rt.level then ⟨rt.level, 0⟩
  else if q ≤ rt.changes + 1 then ⟨sample, 0⟩
  else ⟨rt.level, rt.changes + 1⟩

/-- R134: the digital inputs after a scan's samples are counted. -/
def State.countedInputs (s : State) (samples : BitVec 16) : Tab InputRt 16 :=
  s.tio.inputs.mapIdx fun i rt => countedInput s.tio.firstSample (s.tables.inputQ.get i) (samples.getLsbD i.val) rt

/-- R137: the L1 payload: bit i is the qualified level of input i. -/
def l1Payload (inputs : Tab InputRt 16) : List Byte :=
  leBytes 2 ((indices 16).foldr (fun i n => (inputs.get i).level.toNat + 2 * n) 0)

/-! ### L2 -/

/-- R138: L2 is built and the relays are driven from its bits. -/
def State.buildL2 (s : State) : State :=
  { s with tio := { s.tio with relays := BitVec.ofNat 8 (leNat (s.build (s.tables.lRun s.tables.l2) 1)) } }

/-- One L2 chain request is taken (R139). -/
def State.takeL2Request (s : State) : State := { s with tio := { s.tio with l2Requests := s.tio.l2Requests - 1 } }

/-- L2_CHAIN_BUILD (R139). -/
def execL2ChainBuild (s : State) : Host.Outcome State Fault Refusal :=
  s.occurs (s.operating == .run && decide (0 < s.tio.l2Requests)) s.takeL2Request.buildL2

/-! ### The scan -/

/-- R131: a scan begins and the timer restarts. -/
def State.beginScan (s : State) : State :=
  { s with tio := { s.tio with scanTimer := some s.tables.scanPeriod, scanInFlight := true } }

/-- SCAN_TIMER_EXPIRY (R131); two scans are never in flight together. The samples that the beginning takes are carried by the scan's
completion (log 9). -/
def execScanTimerExpiry (s : State) : Host.Outcome State Fault Refusal :=
  s.occurs (s.operating == .run && s.tio.scanTimer.isSome && !s.tio.scanInFlight) s.beginScan

/-- R140: the hand-over of a feed's channel, for an enabled channel only. -/
def State.handOver (d : Feed) (outcome : Nat → Option ReadingOutcome) (readings : Tab (BitVec 12) 16) (s : State) : State :=
  match outcome (feedChannel d).val with
  | none => s
  | some o => s.onFeed d fun f => { f with handovers := f.handovers ++ [⟨readings.get (feedChannel d), o⟩] }

/-- R133: the events of a completion, in ascending channel order. -/
def scanEvents (before after : Tab ChannelRt 16) : List Event :=
  (indices 16).flatMap fun i => channelEvents i (before.get i) (after.get i)

/-- R135: the completion of a scan. -/
def Work.completeScan (samples : BitVec 16) (readings : Tab (BitVec 12) 16) (w : Work) : Work :=
  let outcome := w.st.outcomeAt readings
  let before := w.st.tio.channels
  let l0 := w.st.l0Payload readings
  let w1 := w.on fun s => ({ s with tio := { s.tio with channels := s.steppedChannels readings, scanInFlight := false } }).raiseAll
    (scanEvents before (s.steppedChannels readings))
  let w2 := w1.applyL0 outcome l0
  let w3 := w2.on fun s => { s with tio := { s.tio with inputs := s.countedInputs samples, firstSample := false } }
  let w4 := w3.applyRun (w3.st.tables.lRun w3.st.tables.l1) (l1Payload w3.st.tio.inputs)
  w4.on fun s => (s.buildL2.handOver .cab outcome readings).handOver .spreader outcome readings

/-- SCAN_COMPLETION (R135). -/
def execScanCompletion (samples : BitVec 16) (readings : Tab (BitVec 12) 16) (s : State) : Host.Outcome State Fault Refusal :=
  s.occurs (s.operating == .run && s.tio.scanInFlight) (s.work.completeScan samples readings).close

end Sys2Proof.Machine
end

