-- ==== Sys2Proof/Machine/Dispatch.lean ====
section
/-! DEFINITION. One arm for each command of spec/opcode_table.json. -/

namespace Sys2Proof.Machine

def exec (i : Instr) (s : State) : Host.Outcome State Fault Refusal :=
  match i with
  | .powerOn strap => Sys2Proof.Machine.execPowerOn strap s
  | .resetInputAssert => Sys2Proof.Machine.execResetInputAssert s
  | .resetInputRelease strap => Sys2Proof.Machine.execResetInputRelease strap s
  | .ageTimerExpiry => Sys2Proof.Machine.execAgeTimerExpiry s
  | .status tag req => Sys2Proof.Machine.execStatus tag req s
  | .enterConfig tag req => Sys2Proof.Machine.execEnterConfig tag req s
  | .enterRun tag req => Sys2Proof.Machine.execEnterRun tag req s
  | .restart tag req => Sys2Proof.Machine.execRestart tag req s
  | .warmRestart => Sys2Proof.Machine.execWarmRestart s
  | .readTable tag req => Sys2Proof.Machine.execReadTable tag req s
  | .writeTable tag req => Sys2Proof.Machine.execWriteTable tag req s
  | .readSignals tag req => Sys2Proof.Machine.execReadSignals tag req s
  | .writeSignal tag req => Sys2Proof.Machine.execWriteSignal tag req s
  | .force tag req => Sys2Proof.Machine.execForce tag req s
  | .release tag req => Sys2Proof.Machine.execRelease tag req s
  | .releaseAll tag req => Sys2Proof.Machine.execReleaseAll tag req s
  | .sendOnce tag req => Sys2Proof.Machine.execSendOnce tag req s
  | .readEvents tag req => Sys2Proof.Machine.execReadEvents tag req s
  | .unknownCommand tag payload => Sys2Proof.Machine.execUnknownCommand tag payload s
  | .frameError line chars windowEnded => Sys2Proof.Machine.execFrameError line chars windowEnded s
  | .strayFrame line frame windowEnded => Sys2Proof.Machine.execStrayFrame line frame windowEnded s
  | .masterResponseAccepted line frame => Sys2Proof.Machine.execMasterResponseAccepted line frame s
  | .hailReplyTaken frame => Sys2Proof.Machine.execHailReplyTaken frame s
  | .festoonDataAccepted frame => Sys2Proof.Machine.execFestoonDataAccepted frame s
  | .festoonPoll frame => Sys2Proof.Machine.execFestoonPoll frame s
  | .festoonReceptionStart => Sys2Proof.Machine.execFestoonReceptionStart s
  | .festoonDataAnswer => Sys2Proof.Machine.execFestoonDataAnswer s
  | .mgmtReplyStart => Sys2Proof.Machine.execMgmtReplyStart s
  | .cycleTimerExpiry line => Sys2Proof.Machine.execCycleTimerExpiry line s
  | .outTurnStart line => Sys2Proof.Machine.execOutTurnStart line s
  | .outFrameEnd line => Sys2Proof.Machine.execOutFrameEnd line s
  | .turnBoundary line => Sys2Proof.Machine.execTurnBoundary line s
  | .inTurn line => Sys2Proof.Machine.execInTurn line s
  | .pollEnd line => Sys2Proof.Machine.execPollEnd line s
  | .responseWindowExpiry line => Sys2Proof.Machine.execResponseWindowExpiry line s
  | .firstHail => Sys2Proof.Machine.execFirstHail s
  | .searchTimerExpiry => Sys2Proof.Machine.execSearchTimerExpiry s
  | .hailEnd => Sys2Proof.Machine.execHailEnd s
  | .searchWindowExpiry => Sys2Proof.Machine.execSearchWindowExpiry s
  | .detachTimerExpiry line => Sys2Proof.Machine.execDetachTimerExpiry line s
  | .staleTimerExpiry slot => Sys2Proof.Machine.execStaleTimerExpiry slot s
  | .sweep => Sys2Proof.Machine.execSweep s
  | .l2ChainBuild => Sys2Proof.Machine.execL2ChainBuild s
  | .scanTimerExpiry => Sys2Proof.Machine.execScanTimerExpiry s
  | .scanCompletion samples readings => Sys2Proof.Machine.execScanCompletion samples readings s
  | .feedReading feed => Sys2Proof.Machine.execFeedReading feed s
  | .portHold line => Sys2Proof.Machine.execPortHold line s
  | .portRelease line => Sys2Proof.Machine.execPortRelease line s
  | .lineRest line => Sys2Proof.Machine.execLineRest line s

end Sys2Proof.Machine
end

