-- ==== Sys2Proof/Safety.lean ====
section
/-! DEFINITION. What a safe part is: the laws that the manual says hold of the state at every moment, gathered into one invariant, and
the few words the statements use. -/

namespace Sys2Proof.Machine

/-! ### Words of the statements -/

/-- No reset is asserted, so commands are taken (R153). -/
def State.awake (s : State) : Prop := s.resetHeld = false

/-- The part with a reply due on the festoon line: command code, status, data, and the rate it will be sent at (R72, R126, R67). -/
def State.replying (tag : BitVec 6) (code status : Nat) (data : List Byte) (rate : Rate) (s : State) : State :=
  { s with fp := { s.fp with
      due := some (.reply tag (BitVec.ofNat 8 code :: BitVec.ofNat 8 status :: data) rate) } }

/-- The slot of an IN turn (R89, R90). -/
def Turn.inSlot : Turn → Option SlotIx
  | .due .regularIn k | .poll k | .window k | .inGap k | .missed k => Option.some k
  | .due .regularOut _ | .due .chainedOut _ | .outFrame _ | .outGap _ | .none => Option.none

/-- The slot of an OUT turn (R88). -/
def Turn.outSlot : Turn → Option SlotIx
  | .due .regularOut k | .due .chainedOut k | .outFrame k | .outGap k => Option.some k
  | .due .regularIn _ | .poll _ | .window _ | .inGap _ | .missed _ | .none => Option.none

/-- A number of the signal range (R1). -/
def signalRange (v : Int) : Prop := -32768 ≤ v ∧ v ≤ 32767

/-- A record within the ranges of R1. -/
def SigRec.inRange (r : SigRec) : Prop :=
  signalRange r.value ∧ r.age ≤ 65535 ∧ ∀ v, r.force = some v → signalRange v

/-! ### Changes that several commands share -/

/-- R175, R176: from `x`, the part with every change and every other event of an event made, to `t`: the watch checks of the records
the event touched are taken, as `WatchEntriesReport` says, and nothing else changes. -/
def State.Ends (x : State) (touched : SigIx → Prop) (t : State) : Prop :=
  ∃ marks : SigIx → Bool, (∀ i, marks i = true ↔ touched i) ∧ t = (Work.mk x marks).close

/-- R77, R78: from `s` to `t` a good frame was scored on a line and its reception ended: 1 off the score, and at 63 or less a DEGRADED
port is ACTIVE again with LINE_RECOVERED. -/
structure GoodScored (l : Line) (s t : State) : Prop where
  link : t.link l = { s.link l with
    score := (s.link l).score - 1
    health := if (s.link l).score - 1 ≤ 63 then .active else (s.link l).health
    phase := .ignoring }
  raised : (s.link l).health = .degraded ∧ (s.link l).score - 1 ≤ 63 →
    t.events = (s.raise (.lineRecovered l ((s.link l).score - 1))).events ∧
    t.ovf = (s.raise (.lineRecovered l ((s.link l).score - 1))).ovf
  quiet : ¬((s.link l).health = .degraded ∧ (s.link l).score - 1 ≤ 63) → t.events = s.events ∧ t.ovf = s.ovf
  frame : t = { s.setLink l (t.link l) with events := t.events, ovf := t.ovf }

/-- R77, R78: from `s` to `t` a frame error without overflow was scored on a line and its reception ended: 8 on the score, and at 96
or more an ACTIVE port is DEGRADED with LINE_DEGRADED. -/
structure ErrorScored (l : Line) (s t : State) : Prop where
  link : t.link l = { s.link l with
    score := (s.link l).score + 8
    health := if 96 ≤ (s.link l).score + 8 then .degraded else (s.link l).health
    phase := .ignoring }
  raised : (s.link l).health = .active ∧ 96 ≤ (s.link l).score + 8 →
    t.events = (s.raise (.lineDegraded l ((s.link l).score + 8))).events ∧
    t.ovf = (s.raise (.lineDegraded l ((s.link l).score + 8))).ovf
  quiet : ¬((s.link l).health = .active ∧ 96 ≤ (s.link l).score + 8) → t.events = s.events ∧ t.ovf = s.ovf
  frame : t = { s.setLink l (t.link l) with events := t.events, ovf := t.ovf }

/-- The record of a signal after a clearing (R18). -/
def SigRec.emptied (r : SigRec) : SigRec := ⟨0, .absent, 65535, r.force⟩

/-- A master port OFF (R86, R117): no turn, no cycle, no timer, an empty queue, its line ignored. -/
def MasterPort.stopped (p : MasterPort) : MasterPort :=
  { p with state := .off, turn := .none, cycle := none, cycleTimer := none, overdue := false, queue := [], detachTimer := none
           link := { p.link with phase := .ignoring } }

/-- R161: from `s` to `t` the part entered CONFIG. Both master lines are left without footing (log 27). The last field says that everything it does not name is kept. -/
structure ConfigEntry (s t : State) : Prop where
  masterSlots : ∀ e, t.masterRt.get e = ⟨.disabled, 0, false, 0⟩
  festoonSlots : ∀ k, t.fp.slots.get k = ⟨.disabled, none, 0⟩
  dueData : ∀ k, s.fp.due = some (.data k) → t.fp.due = none
  dueReply : (∀ k, s.fp.due ≠ some (.data k)) → t.fp.due = s.fp.due
  gates : ∀ g, t.gateRt.get g = ⟨.closed, 0, .closed⟩
  feeds : ∀ d, t.feedRt.get d = ⟨.good, 0, [], []⟩
  channels : ∀ c, t.tio.channels.get c = ⟨.normal, 0, 0⟩
  inputs : ∀ i, t.tio.inputs.get i = ⟨false, 0⟩
  trolley : t.tio.relays = 0 ∧ t.tio.scanTimer = none ∧ t.tio.scanInFlight = false ∧ t.tio.firstSample = true ∧ t.tio.l2Requests = 0
  panel : ∀ i, s.tables.ownedBy .panel i = true → t.image.get i = { s.image.get i with force := none }
  cleared : ∀ i, s.tables.ownedBy .panel i = false → t.image.get i = ⟨0, .absent, 65535, none⟩
  frame : t = { s with
    operating := .config, image := t.image, sp := s.sp.stopped, cp := s.cp.stopped, attached := none, searchTimer := none, hail := .off
    masterRt := t.masterRt, fp := { s.fp with slots := t.fp.slots, due := t.fp.due }, gateRt := t.gateRt, sweepTimer := none
    tio := t.tio, feedRt := t.feedRt }

/-- R160, R86: from `s` to `t` the part entered RUN. The Cab Port's first cycle begins at once, its first turn due (log 10); a port that
starts needs a new rest of its line (log 27). The last field says that everything it does not name is kept. -/
structure RunEntry (s t : State) : Prop where
  panel : ∀ i, s.tables.ownedBy .panel i = true → t.image.get i = s.image.get i
  cleared : ∀ i, s.tables.ownedBy .panel i = false → t.image.get i = (s.image.get i).emptied
  gates : ∀ g, t.gateRt.get g = ⟨.closed, 0, .closed⟩
  feeds : ∀ d, t.feedRt.get d = ⟨.good, 0, [], []⟩
  watch : ∀ w, t.watchLast.get w = none
  channels : ∀ c, t.tio.channels.get c = ⟨.normal, 0, 0⟩
  inputs : ∀ i, t.tio.inputs.get i = ⟨false, 0⟩
  trolley : t.tio.relays = 0 ∧ t.tio.scanTimer = some s.tables.scanPeriod ∧ t.tio.scanInFlight = true ∧ t.tio.firstSample = true ∧
    t.tio.l2Requests = 0
  profileSlots : ∀ p k, t.masterRt.get (profileEntry p k) = ⟨.disabled, 0, false, 0⟩
  cabSlots : ∀ k, t.masterRt.get (cabEntry k) =
    ⟨if (s.lineEntry .cp).enabled && (s.slotRec (cabEntry k)).enabled then
      (if (s.slotRec (cabEntry k)).direction = .inbound then .awaiting else .live) else .disabled, 0, false, 0⟩
  festoonSlots : ∀ k, t.fp.slots.get k =
    if (s.tables.festoonSlots.get k).enabled then
      (if (s.tables.festoonSlots.get k).direction = .inbound then
        ⟨.awaiting, some (s.tables.festoonSlots.get k).staleLimit, (s.fp.slots.get k).arrival⟩
      else ⟨.live, none, (s.fp.slots.get k).arrival⟩)
    else ⟨.disabled, none, (s.fp.slots.get k).arrival⟩
  cab : (s.lineEntry .cp).enabled = true → t.cp = { s.cp with
    state := .cycling, cycleTimer := some (s.lineEntry .cp).cyclePeriod, overdue := false, overrun := false, queue := []
    detachTimer := none, cycle := t.cp.cycle, turn := t.cp.turn
    link := { s.cp.link with rate := (s.lineEntry .cp).rate, phase := .ignoring } }
  cabFirstTurn : (s.lineEntry .cp).enabled = true → ∀ k kind, t.nextVisit .cp 0 = some (k, kind) →
    t.cp.turn = .due kind k ∧ t.cp.cycle = some (k.val + 1)
  cabNoTurn : (s.lineEntry .cp).enabled = true → t.nextVisit .cp 0 = none → t.cp.turn = .none ∧ t.cp.cycle = none
  cabOff : (s.lineEntry .cp).enabled = false → t.cp = { s.cp.stopped with link := { s.cp.stopped.link with rate := (s.lineEntry .cp).rate } }
  spreader : t.sp = { s.sp.stopped with
    state := if (s.lineEntry .sp).enabled then .search else .off
    link := { s.sp.stopped.link with rate := (s.lineEntry .sp).rate } }
  search : t.hail = (if (s.lineEntry .sp).enabled then .firstDue else .off) ∧
    t.unknownCode = (if (s.lineEntry .sp).enabled then none else s.unknownCode)
  frame : t = { s with
    operating := .run, image := t.image, sp := t.sp, cp := t.cp, attached := none, searchTimer := none, hail := t.hail
    unknownCode := t.unknownCode, masterRt := t.masterRt, fp := { s.fp with
      slots := t.fp.slots, link := { s.fp.link with rate := (s.lineEntry .fp).rate } }
    gateRt := t.gateRt, sweepTimer := some s.tables.sweepPeriod, tio := t.tio, feedRt := t.feedRt, watchLast := t.watchLast }

/-- R92, R93, R113: from `s` to `t` the turn of slot `k`, entry `e`, ended in a miss. The records that go STALE or that a clearing changes
are the ones touched (log 12). -/
structure MissTaken (l : MasterLine) (k : SlotIx) (e : MasterIx) (s t : State) : Prop where
  /-- the miss does not make the slot LOST -/
  counted : (missedSlot (s.slotRec e).missLimit (s.masterRt.get e)).status ≠ .lost ∨ (s.masterRt.get e).status = .lost →
    t = { s.setPort l { s.port l with turn := .missed k } with
      masterRt := s.masterRt.set e (missedSlot (s.slotRec e).missLimit (s.masterRt.get e)) }
  /-- the slot enters LOST and the port stays CYCLING -/
  lost : (missedSlot (s.slotRec e).missLimit (s.masterRt.get e)).status = .lost → (s.masterRt.get e).status ≠ .lost →
    (l = .cp ∨ s.attached = none ∨
      (∃ k' e', s.activeEntry .sp k' = some e' ∧ e' ≠ e ∧ (s.slotRec e').enabled = true ∧ (s.slotRec e').direction = .inbound ∧
        (s.masterRt.get e').status ≠ .lost)) →
    t = ((({ s.setPort l { s.port l with turn := .missed k } with
      masterRt := s.masterRt.set e (missedSlot (s.slotRec e).missLimit (s.masterRt.get e)) }).raise
        (.slotLost (masterLine l) k)).work.stale (writtenSignals (s.tables.slotRun (s.slotRec e)))).close
  /-- the slot was the attached profile's last IN slot not LOST: the attachment ends with cause 1 and the port searches -/
  ended : (missedSlot (s.slotRec e).missLimit (s.masterRt.get e)).status = .lost → (s.masterRt.get e).status ≠ .lost → l = .sp →
    ∀ p, s.attached = some p →
    (∀ k' e', s.activeEntry .sp k' = some e' → e' ≠ e → (s.slotRec e').enabled = true → (s.slotRec e').direction = .inbound →
      (s.masterRt.get e').status = .lost) →
    (∀ e', t.masterRt.get e' = if e'.val / 16 = p.val then ⟨.disabled, 0, false, 0⟩ else s.masterRt.get e') ∧
    (∀ i, t.image.get i =
      if s.tables.ownedBy .spreader i then (s.image.get i).emptied
      else if (s.image.get i).quality.goesStale && (writtenSignals (s.tables.slotRun (s.slotRec e))).contains i then
        { s.image.get i with quality := .stale }
      else s.image.get i) ∧
    State.Ends { s with
      sp := { s.sp with state := .search, turn := .none, cycle := none, cycleTimer := none, overdue := false, queue := []
                        detachTimer := none }
      attached := none, searchTimer := none, hail := .firstDue, unknownCode := none, masterRt := t.masterRt, image := t.image
      events := ((s.raise (.slotLost .sp k)).raise (.spreaderDetached p 1)).events
      ovf := ((s.raise (.slotLost .sp k)).raise (.spreaderDetached p 1)).ovf } (fun i => t.image.get i ≠ s.image.get i) t

/-- R107, R116, R113, R80: the Spreader Port in SEARCH, its first HAIL due and its unknown-code register empty. -/
def State.searching (s : State) : State :=
  { s with
    sp := { s.sp with state := .search, turn := .none, cycle := none, cycleTimer := none, overdue := false, queue := []
                      detachTimer := none }
    searchTimer := none, hail := .firstDue, unknownCode := none }

/-- R86, R150: from `s` to `t` the Cab Port returned to CYCLING: its enabled IN slots AWAITING with count 0, its enabled OUT slots LIVE, armed
flags and timestamps kept, its timer started and its first cycle begun. -/
structure CabResumed (s t : State) : Prop where
  port : t.cp = { s.cp with
    state := .cycling, cycleTimer := some (s.lineEntry .cp).cyclePeriod, overdue := false, overrun := false, queue := []
    detachTimer := none, cycle := t.cp.cycle, turn := t.cp.turn }
  firstTurn : ∀ k kind, t.nextVisit .cp 0 = some (k, kind) → t.cp.turn = .due kind k ∧ t.cp.cycle = some (k.val + 1)
  noTurn : t.nextVisit .cp 0 = none → t.cp.turn = .none ∧ t.cp.cycle = none
  cabSlots : ∀ k, t.masterRt.get (cabEntry k) =
    if (s.slotRec (cabEntry k)).enabled then
      (if (s.slotRec (cabEntry k)).direction = .inbound then { s.masterRt.get (cabEntry k) with status := .awaiting, misses := 0 }
      else { s.masterRt.get (cabEntry k) with status := .live })
    else s.masterRt.get (cabEntry k)
  profileSlots : ∀ p k, t.masterRt.get (profileEntry p k) = s.masterRt.get (profileEntry p k)
  frame : t = { s with cp := t.cp, masterRt := t.masterRt }

/-- R115, R149, R12: from `s` to `t` a master port entered HELD: turn abandoned, queue emptied, an attachment ended with cause 3, the search
stopped, and every non-ABSENT record of the port's area SUSPECT(FEED); these records are the ones touched (log 12). -/
structure PortHeld (l : MasterLine) (s t : State) : Prop where
  port : t.port l = { s.port l with
    state := .held, turn := .none, cycle := none, cycleTimer := none, overdue := false, queue := [], detachTimer := none
    link := { (s.port l).link with phase := .ignoring } }
  marked : ∀ i, s.tables.ownedBy (areaOf l) i = true → (s.image.get i).quality ≠ .absent →
    t.image.get i = { s.image.get i with quality := .suspect .feed }
  unmarked : ∀ i, s.tables.ownedBy (areaOf l) i = false ∨ (s.image.get i).quality = .absent → t.image.get i = s.image.get i
  detached : ∀ p, l = .sp → s.attached = some p →
    ∀ e, t.masterRt.get e = if e.val / 16 = p.val then ⟨.disabled, 0, false, 0⟩ else s.masterRt.get e
  quiet : l = .cp ∨ s.attached = none → t.masterRt = s.masterRt
  ends :
    let raised := s.raiseAll ((if l = .sp then s.attached else none).toList.map fun p => .spreaderDetached p 3)
    State.Ends { s.setPort l (t.port l) with
      attached := if l = .sp then none else s.attached, searchTimer := if l = .sp then none else s.searchTimer
      hail := if l = .sp then .off else s.hail, masterRt := t.masterRt, image := t.image, events := raised.events, ovf := raised.ovf }
      (fun i => s.tables.ownedBy (areaOf l) i = true ∧ (s.image.get i).quality ≠ .absent) t

/-! ### What ENTER_RUN refuses (R158, R159) -/

/-- An enabled area entry of an owner holds the index (R6). -/
def Tables.Assigns (t : Tables) (o : Owner) (i : SigIx) : Prop :=
  ∃ a, (t.areas.get a).enabled = true ∧ (t.areas.get a).owner = o ∧ (t.areas.get a).first ≤ i ∧ i ≤ (t.areas.get a).last

/-- R158, passes 3 and 4: the enabled slots of each enabled profile, the enabled cab slots and the enabled festoon slots. -/
def Tables.Examines (t : Tables) (x : Examined) : Prop :=
  (∃ (p : ProfileIx) (k : SlotIx), let m := t.masterSlots.get (profileEntry p k)
    (t.profiles.get p).enabled = true ∧ m.enabled = true ∧
      x = ⟨.profile p.val, .slot, p.val * 16 + k.val, m.direction, m.tag, m.length, m.first, m.count, m.chain⟩) ∨
  (∃ k : SlotIx, let m := t.masterSlots.get (cabEntry k)
    m.enabled = true ∧ x = ⟨.cab, .slot, 64 + k.val, m.direction, m.tag, m.length, m.first, m.count, m.chain⟩) ∨
  (∃ k : SlotIx, let f := t.festoonSlots.get k
    f.enabled = true ∧ x = ⟨.festoon, .slot, 80 + k.val, f.direction, f.tag, f.length, f.first, f.count, f.chain⟩)

/-- R158, passes 5 to 12: the slots of `Examines`, and L0, L1 and L2 with their fixed directions and lengths (R142). -/
def Tables.Places (t : Tables) (x : Examined) : Prop :=
  t.Examines x ∨ x = ⟨.trolley, .trolley, 32, .inbound, 0, 32, t.l0.first, t.l0.count, none⟩ ∨
  x = ⟨.trolley, .trolley, 33, .inbound, 0, 2, t.l1.first, t.l1.count, none⟩ ∨
  x = ⟨.trolley, .trolley, 34, .outbound, 0, 1, t.l2.first, t.l2.count, none⟩

/-- R21: placement `p` is the record a slot names at position `j` of its run. -/
def Tables.Names (t : Tables) (x : Examined) (j : Nat) (p : Placement) : Prop :=
  j < x.count ∧ ∃ i : Fin 384, i.val = x.first + j ∧ t.placements.get i = p

/-- An examined slot with its placement at position `j` of the run (passes 5 to 12). -/
structure Tables.NamesAt (t : Tables) (table : TableId) (n : Nat) (x : Examined) (j : Nat) (p : Placement) : Prop where
  places : t.Places x
  table : x.table = table
  entry : x.entry = n
  names : t.Names x j p

/-- R102: some enabled profile holds an enabled slot of a direction at an index. -/
def Tables.ProfileHas (t : Tables) (d : Direction) (k : SlotIx) : Prop :=
  ∃ p, (t.profiles.get p).enabled = true ∧ (t.masterSlots.get (profileEntry p k)).enabled = true ∧
    (t.masterSlots.get (profileEntry p k)).direction = d

/-- R64, R102: a chain target that a gate, a cab slot or a festoon slot may name. -/
def Tables.Serves (t : Tables) : ChainTarget → Prop
  | .cp k => (t.masterSlots.get (cabEntry k)).enabled = true ∧ (t.masterSlots.get (cabEntry k)).direction = .outbound
  | .sp k => t.ProfileHas .outbound k ∧ ¬t.ProfileHas .inbound k
  | .l => True

/-- R102: a chain target that a slot of a set may name: a profile's own slots answer for the spreader line. -/
def Tables.ServesSet (t : Tables) : SlotSet → ChainTarget → Prop
  | .profile q, .sp k => ∃ p : ProfileIx, p.val = q ∧ (t.masterSlots.get (profileEntry p k)).enabled = true ∧
      (t.masterSlots.get (profileEntry p k)).direction = .outbound
  | .profile _, .cp k => t.Serves (.cp k)
  | .profile _, .l => t.Serves .l
  | .cab, c | .festoon, c | .trolley, c => t.Serves c

/-- R103: the budget of a slot in µs at a bit time of `b` µs, 0 when the slot is disabled. -/
def MasterSlot.budget (b : Nat) (m : MasterSlot) : Nat :=
  if m.enabled then
    match m.direction with
    | .outbound => (10 * (6 + m.length) + 24) * b
    | .inbound => (60 + 10 * (6 + m.length) + 24) * b + m.window * 10
  else 0

/-- R104: the budget of a set of 16 slots, at the rate of a LINE entry, exceeds that entry's cycle period, the entry being enabled. -/
def LineEntry.Exceeded (e : LineEntry) (slots : SlotIx → MasterSlot) : Prop :=
  e.enabled = true ∧ e.cyclePeriod * 1000 <
    ((indices 16).map fun k => (slots k).budget (match e.rate with | .kbit250 => 4 | .kbit500 => 2 | .kbit1000 => 1)).sum

/-- An entry comes before another in the order of R159. -/
def entryBefore (table : TableId) (n : Nat) (table' : TableId) (n' : Nat) : Prop :=
  tableCode table < tableCode table' ∨ (table = table' ∧ n < n')

/-- A slot is taken before another in the order of R159. -/
def Examined.before (y x : Examined) : Prop := entryBefore y.table y.entry x.table x.entry

/-- R25, R159: a claim of slot `x` on the signal of its placement at position `j` conflicts with a claim before it: of an earlier placement
of the slot, or of an earlier slot, but not between slots of two different profiles. -/
def Tables.Conflicts (t : Tables) (x : Examined) (j : Nat) (p : Placement) : Prop :=
  ∃ y i q, t.Places y ∧ t.Names y i q ∧ q.direction = .inbound ∧ q.addr.base = p.addr.base ∧
    ((y = x ∧ i < j) ∨
      (y.before x ∧ ∀ a b, y.set = .profile a → x.set = .profile b → a = b))

/-- The condition under which ENTER_RUN refuses an entry for a reason: R6 for areas, R101 and R129 for slots, R24 to R26 and R142 for
placements, R118 for profiles, R104 for the budget, R62 to R64 for gates and terms, R102 for slot chains, R142 for channels and R151 for
the feed monitors. A reason that concerns a pair names the later member (R159). -/
def Tables.Fails (t : Tables) (reason : InvalidReason) (table : TableId) (n : Nat) : Prop :=
  match reason with
  | .areaOverlap => table = .area ∧ ∃ i j : Fin 8, j.val = n ∧ i < j ∧ (t.areas.get i).enabled = true ∧ (t.areas.get j).enabled = true ∧
      ∃ s, (t.areas.get i).first ≤ s ∧ s ≤ (t.areas.get i).last ∧ (t.areas.get j).first ≤ s ∧ s ≤ (t.areas.get j).last
  | .areaBounds => table = .area ∧ ∃ j : Fin 8, j.val = n ∧ (t.areas.get j).enabled = true ∧ (t.areas.get j).last < (t.areas.get j).first
  | .slotTagDup => table = .slot ∧ ∃ x y, t.Examines x ∧ t.Examines y ∧ x.entry = n ∧ y.entry < n ∧ y.set = x.set ∧ y.tag = x.tag
  | .slotLength => table = .slot ∧ ∃ x, t.Examines x ∧ x.entry = n ∧ x.direction = .inbound ∧ x.length = 0
  | .placeField => ∃ x, t.Places x ∧ x.table = table ∧ x.entry = n ∧ (384 < x.first + x.count ∨
      ∃ j p, t.Names x j p ∧ (p.width = 0 ∨ p.direction ≠ x.direction ∨ 8 * x.length < p.offset + p.width))
  | .placeOwner => ∃ x j p, t.NamesAt table n x j p ∧ p.direction = .inbound ∧
      ¬t.Assigns (match x.set with | .profile _ => .spreader | .cab => .cab | .festoon => .festoon | .trolley => .trolley) p.addr.base
  | .placeOverlap => ∃ x i j p q, t.NamesAt table n x i p ∧ t.NamesAt table n x j q ∧ i < j ∧
      ∃ b, p.offset ≤ b ∧ b < p.offset + p.width ∧ q.offset ≤ b ∧ b < q.offset + q.width
  | .placeSelector => ∃ x j p, t.NamesAt table n x j p ∧ p.direction = .inbound ∧ p.addr.selector ≠ none
  | .placeConv => ∃ x j p c, t.NamesAt table n x j p ∧ p.conversion = some c ∧ ((t.conversions.get c).enabled = false ∨
      (p.direction = .inbound ∧ (0 < (t.conversions.get c).lo ∨ (t.conversions.get c).hi < 0)))
  | .placeGate => ∃ x j p g, t.NamesAt table n x j p ∧ p.gate = some g ∧
      (p.direction = .inbound ∨ (t.gates.get g).enabled = false)
  | .placeSafe => ∃ x j p, t.NamesAt table n x j p ∧ p.direction = .outbound ∧ 2 ^ p.width ≤ p.safe.toNat
  | .writerDup => ∃ x j p, t.NamesAt table n x j p ∧ p.direction = .inbound ∧ t.Conflicts x j p
  | .profileCodeDup => table = .profile ∧ ∃ p q : ProfileIx, q.val = n ∧ p < q ∧ (t.profiles.get p).enabled = true ∧
      (t.profiles.get q).enabled = true ∧ (t.profiles.get p).typeCode = (t.profiles.get q).typeCode
  | .profileNone => table = .profile ∧
      ((n = 0 ∧ (t.lines.get 0).enabled = true ∧ ∀ p, (t.profiles.get p).enabled = false) ∨
        ∃ p : ProfileIx, p.val = n ∧ (t.profiles.get p).enabled = true ∧ ∀ k, (t.masterSlots.get (profileEntry p k)).enabled = true →
          (t.masterSlots.get (profileEntry p k)).direction = .outbound)
  | .cycleBudget =>
      (table = .line ∧ n = 1 ∧ (t.lines.get 1).Exceeded fun k => t.masterSlots.get (cabEntry k)) ∨
      (table = .profile ∧ ∃ p : ProfileIx, p.val = n ∧ (t.profiles.get p).enabled = true ∧
        (t.lines.get 0).Exceeded fun k => t.masterSlots.get (profileEntry p k))
  | .gateTerms => table = .gate ∧ ∃ g : GateIx, g.val = n ∧ (t.gates.get g).enabled = true ∧ (t.gates.get g).termCount = 0
  | .termSignal => table = .term ∧ ∃ (g : GateIx) (j : Fin 256), j.val = n ∧ (t.gates.get g).enabled = true ∧ g.val * 8 ≤ n ∧
      n < g.val * 8 + (t.gates.get g).termCount ∧ (t.terms.get j).test ≠ .gate ∧ (t.terms.get j).test ≠ .always ∧
      ∀ o, ¬t.Assigns o ((t.terms.get j).addr.selector.getD (t.terms.get j).addr.base)
  | .termGate => table = .term ∧ ∃ (g : GateIx) (j : Fin 256), j.val = n ∧ (t.gates.get g).enabled = true ∧ g.val * 8 ≤ n ∧
      n < g.val * 8 + (t.gates.get g).termCount ∧ (t.terms.get j).test = .gate ∧
      ∀ h : GateIx, h.val = (t.terms.get j).k.toNat → (t.gates.get h).enabled = false
  | .gateOutput => table = .gate ∧ ∃ g : GateIx, g.val = n ∧ (t.gates.get g).enabled = true ∧
      (¬t.Assigns .gate (t.gates.get g).output ∨
        ∃ h : GateIx, h < g ∧ (t.gates.get h).enabled = true ∧ (t.gates.get h).output = (t.gates.get g).output)
  | .gateRearm => table = .gate ∧ ∃ g : GateIx, g.val = n ∧ (t.gates.get g).enabled = true ∧ (t.gates.get g).latching = true ∧
      ∀ a, (t.gates.get g).rearm = some a → a.selector ≠ none ∨ ∀ o, ¬t.Assigns o a.base
  | .chainTarget =>
      (table = .slot ∧ ∃ x c, t.Examines x ∧ x.entry = n ∧ x.direction = .inbound ∧ x.chain = some c ∧ ¬t.ServesSet x.set c) ∨
      (table = .gate ∧ ∃ (g : GateIx) (c : ChainTarget), g.val = n ∧ (t.gates.get g).enabled = true ∧ (t.gates.get g).chain = some c ∧
        ¬t.Serves c)
  | .channelOff => table = .trolley ∧ ∃ c : Fin 16, c.val = n ∧ (t.channels.get c).enabled = false ∧
      ∃ x j p, t.NamesAt .trolley 32 x j p ∧ p.offset / 16 ≤ c.val ∧ c.val ≤ (p.offset + p.width - 1) / 16
  | .feedChannel => table = .feed ∧
      ((n = 0 ∧ (t.feeds.get 0).enabled = true ∧ (t.channels.get 15).enabled = false) ∨
        (n = 1 ∧ (t.feeds.get 1).enabled = true ∧ (t.channels.get 14).enabled = false))

/-! ### The invariant, part by part -/

/-- R1, R16, R34: every record lies within its ranges, every conversion has lo ≤ hi within the signal range, and at most 32 signals
carry a force. -/
structure ImageInv (s : State) : Prop where
  records : ∀ i, (s.image.get i).inRange
  conversions : ∀ c, signalRange (s.tables.conversions.get c).lo ∧ signalRange (s.tables.conversions.get c).hi ∧
    (s.tables.conversions.get c).lo ≤ (s.tables.conversions.get c).hi
  forces : s.forceCount ≤ 32

/-- R77, R78, R171: every score is at most 247, an ACTIVE port's at most 95, a DEGRADED one's at least 64; the queue holds at most 32
records. -/
structure CountersInv (s : State) : Prop where
  score : ∀ l, (s.link l).score ≤ 247
  active : ∀ l, (s.link l).health = .active → (s.link l).score ≤ 95
  degraded : ∀ l, (s.link l).health = .degraded → 64 ≤ (s.link l).score
  events : s.events.length ≤ 32

/-- R86, R97, R98, R106, R107, R109, R79, R81: an attachment exists exactly while the Spreader Port is CYCLING, and is to an enabled
profile; the Cab Port never searches; timers, cycles, turns and queues exist only in the states that have them; no slot stands twice in a
queue. -/
structure PortInv (s : State) : Prop where
  attachment : s.attached.isSome ↔ s.sp.state = .cycling
  profile : ∀ p, s.attached = some p → (s.tables.profiles.get p).enabled = true
  cabSearch : s.cp.state ≠ .search
  cycling : ∀ l, (s.port l).state ≠ .cycling →
    (s.port l).cycleTimer = none ∧ (s.port l).cycle = none ∧ (s.port l).turn = .none ∧ (s.port l).queue = []
  distinct : ∀ l, (s.port l).queue.Nodup
  detachTimer : ∀ l, (s.port l).detachTimer.isSome ↔ (s.port l).state = .detached
  festoonTimer : s.fp.detachTimer.isSome ↔ s.fp.state = .detached
  search : s.sp.state ≠ .search → s.searchTimer = none ∧ s.hail = .off

/-- R85, R92, R94, R97: a slot outside the active sets, or not enabled, is DISABLED with count 0, disarmed and timestamp 0; an
enabled OUT slot of a set is LIVE; an enabled IN slot's count agrees with its status and never exceeds its limit; only ONCE slots are
armed; turns in flight and queue entries name enabled slots of the set with their direction. -/
structure SlotInv (s : State) : Prop where
  limits : ∀ e, (s.slotRec e).enabled = true → (s.slotRec e).direction = .inbound →
    1 ≤ (s.slotRec e).missLimit ∧ (s.slotRec e).missLimit ≤ 15
  inactive : ∀ e, ((∀ l k, s.activeEntry l k ≠ some e) ∨ (s.slotRec e).enabled = false) → s.masterRt.get e = .idle
  outbound : ∀ l k e, s.activeEntry l k = some e → (s.slotRec e).enabled = true → (s.slotRec e).direction = .outbound →
    (s.masterRt.get e).status = .live ∧ (s.masterRt.get e).misses = 0
  inbound : ∀ l k e, s.activeEntry l k = some e → (s.slotRec e).enabled = true → (s.slotRec e).direction = .inbound →
    match (s.masterRt.get e).status with
    | .disabled => False
    | .awaiting => (s.masterRt.get e).misses < (s.slotRec e).missLimit
    | .live => (s.masterRt.get e).misses = 0
    | .missing => 1 ≤ (s.masterRt.get e).misses ∧ (s.masterRt.get e).misses < (s.slotRec e).missLimit
    | .lost => (s.masterRt.get e).misses = (s.slotRec e).missLimit
  armed : ∀ e, (s.masterRt.get e).armed = true → (s.slotRec e).direction = .outbound ∧ (s.slotRec e).once = true
  inTurns : ∀ l k, (s.port l).turn.inSlot = some k →
    ∃ e, s.activeEntry l k = some e ∧ (s.slotRec e).enabled = true ∧ (s.slotRec e).direction = .inbound
  outTurns : ∀ l k, (s.port l).turn.outSlot = some k ∨ k ∈ (s.port l).queue →
    ∃ e, s.activeEntry l k = some e ∧ (s.slotRec e).enabled = true ∧ (s.slotRec e).direction = .outbound

/-- R40, R52 to R57, R60, R61: a gate has at most 8 terms; a disabled gate stays CLOSED; an enabled gate's threshold lies within 1 to 15,
its count agrees with its state and never exceeds the threshold, its saved state is its state, and only a latching gate is LOCKED. -/
structure GateInv (s : State) : Prop where
  terms : ∀ g, (s.tables.gates.get g).termCount ≤ 8
  thresholds : ∀ g, (s.tables.gates.get g).enabled = true → 1 ≤ (s.tables.gates.get g).k ∧ (s.tables.gates.get g).k ≤ 15
  disabled : ∀ g, (s.tables.gates.get g).enabled = false → s.gateRt.get g = .closed
  saved : ∀ g, (s.gateRt.get g).saved = (s.gateRt.get g).state
  counts : ∀ g, match (s.gateRt.get g).state with
    | .closed => (s.gateRt.get g).count = 0
    | .rising => 1 ≤ (s.gateRt.get g).count ∧ (s.gateRt.get g).count < (s.tables.gates.get g).k
    | .opened => (s.gateRt.get g).count = (s.tables.gates.get g).k
    | .locked => (s.gateRt.get g).count = 0 ∧ (s.tables.gates.get g).latching = true

/-- R144: an enabled monitor's counts lie within 1 to 15 and its count agrees with its state; a disabled one stays GOOD with count 0. -/
structure FeedInv (s : State) : Prop where
  limits : ∀ d, (s.tables.feeds.get d).enabled = true →
    (1 ≤ (s.tables.feeds.get d).nL ∧ (s.tables.feeds.get d).nL ≤ 15) ∧ (1 ≤ (s.tables.feeds.get d).nG ∧ (s.tables.feeds.get d).nG ≤ 15)
  disabled : ∀ d, (s.tables.feeds.get d).enabled = false → (s.feedRt.get d).state = .good
  counts : ∀ d, match (s.feedRt.get d).state with
    | .good | .low => (s.feedRt.get d).count = 0
    | .dipping => 1 ≤ (s.feedRt.get d).count ∧ (s.feedRt.get d).count < (s.tables.feeds.get d).nL
    | .recovering => 1 ≤ (s.feedRt.get d).count ∧ (s.feedRt.get d).count < (s.tables.feeds.get d).nG

/-- R133, R134: an OPEN channel's count is 3, a NORMAL one's at most 2; a channel that is disabled or unchecked is NORMAL with count 0;
a digital input's change count stays below its q, which lies within 1 to 7. -/
structure TrolleyInv (s : State) : Prop where
  counts : ∀ c, match (s.tio.channels.get c).state with
    | .normal => (s.tio.channels.get c).openCount ≤ 2
    | .opened => (s.tio.channels.get c).openCount = 3
  unchecked : ∀ c, (s.tables.channels.get c).enabled = false ∨ (s.tables.channels.get c).openCheck = false →
    (s.tio.channels.get c).state = .normal ∧ (s.tio.channels.get c).openCount = 0
  inputs : ∀ i, 1 ≤ s.tables.inputQ.get i ∧ s.tables.inputQ.get i ≤ 7 ∧ (s.tio.inputs.get i).changes < s.tables.inputQ.get i

/-- R154: in CONFIG every gate is CLOSED, every relay off and no scan in flight, both master ports are OFF, the monitors and festoon slots
are at rest, no timer of the run is running and no signal carries a force. -/
structure RestInv (s : State) : Prop where
  gates : s.operating = .config → ∀ g, s.gateRt.get g = .closed
  trolley : s.operating = .config → s.tio = .atRest
  ports : s.operating = .config → s.sp.state = .off ∧ s.cp.state = .off
  sweep : s.operating = .config → s.sweepTimer = none
  feeds : s.operating = .config → ∀ d, s.feedRt.get d = .fresh
  festoon : s.operating = .config → ∀ k, s.fp.slots.get k = .idle
  forces : s.operating = .config → ∀ i, (s.image.get i).force = none

/-- R121, R124, R127, R162, R81: only an enabled IN slot's stale timer runs; nothing is due while a reception or an own frame is on the
festoon line; a DATA answer is due in RUN only; a pending restart has its reply due or on the wire; a DETACHED Festoon Port ignores its line
and owes no answer. -/
structure FestoonInv (s : State) : Prop where
  staleTimers : ∀ k, (s.fp.slots.get k).staleTimer.isSome →
    (s.tables.festoonSlots.get k).enabled = true ∧ (s.tables.festoonSlots.get k).direction = .inbound
  receiving : s.fp.link.phase = .receiving → s.fp.due = none
  sending : ∀ f r, s.fp.link.phase = .sending f r → s.fp.due = none
  data : ∀ k, s.fp.due = some (.data k) → s.operating = .run
  restart : s.fp.restartPending = true →
    (∃ tag payload rate, s.fp.due = some (.reply tag payload rate)) ∨ (∃ f r, s.fp.link.phase = .sending f r)
  detached : s.fp.state = .detached → s.fp.link.phase = .ignoring ∧ s.fp.due = none

/-- R157: in RUN the validated flag is yes, and tables under the flag have passed the checks of ENTER_RUN. -/
structure ValidInv (s : State) : Prop where
  run : s.operating = .run → s.validated = true
  passed : s.validated = true → s.tables.validate = none

/-- The stored qualities of each owner's records. In RUN: R13, R12: while the Spreader Port is HELD the SPREADER records are ABSENT or
SUSPECT(FEED), and while it is OFF, in SEARCH or DETACHED they are ABSENT; R12: while the Cab Port is HELD the CAB records are ABSENT or
SUSPECT(FEED); R10, R12: SUSPECT(OPEN) is no quality of a SPREADER, CAB or FESTOON record, and SUSPECT(FEED) none of a FESTOON record; R14:
the GATE records are GOOD or ABSENT; R142: the TROLLEY records are ABSENT, SUSPECT(OPEN), GOOD or CLAMPED; R18: a record of no area is as a
clearing leaves it, without a force. R15, R18: the PANEL records are GOOD or ABSENT, and in CONFIG every other record is as a clearing leaves
it, without a force. -/
structure QualityInv (s : State) : Prop where
  spreader : s.operating = .run → ∀ i, s.tables.ownedBy .spreader i = true →
    (s.image.get i).quality ≠ .suspect .opened ∧
    (s.sp.state = .held → (s.image.get i).quality = .absent ∨ (s.image.get i).quality = .suspect .feed) ∧
    (s.sp.state ≠ .cycling → s.sp.state ≠ .held → (s.image.get i).quality = .absent)
  cab : s.operating = .run → ∀ i, s.tables.ownedBy .cab i = true →
    (s.image.get i).quality ≠ .suspect .opened ∧
    (s.cp.state = .held → (s.image.get i).quality = .absent ∨ (s.image.get i).quality = .suspect .feed)
  festoon : s.operating = .run → ∀ i, s.tables.ownedBy .festoon i = true →
    (s.image.get i).quality ≠ .suspect .opened ∧ (s.image.get i).quality ≠ .suspect .feed
  trolley : s.operating = .run → ∀ i, s.tables.ownedBy .trolley i = true →
    (s.image.get i).quality = .absent ∨ (s.image.get i).quality = .suspect .opened ∨ (s.image.get i).quality = .good ∨
      (s.image.get i).quality = .clamped
  gate : s.operating = .run → ∀ i, s.tables.ownedBy .gate i = true →
    (s.image.get i).quality = .good ∨ (s.image.get i).quality = .absent
  unassigned : s.operating = .run → ∀ i, (∀ o, s.tables.ownedBy o i = false) → s.image.get i = ⟨0, .absent, 65535, none⟩
  panel : ∀ i, s.tables.ownedBy .panel i = true → (s.image.get i).quality = .good ∨ (s.image.get i).quality = .absent
  config : s.operating = .config → ∀ i, s.tables.ownedBy .panel i = false → s.image.get i = ⟨0, .absent, 65535, none⟩

/-- The laws that hold of the part at every moment. -/
structure State.Inv (s : State) : Prop where
  image : ImageInv s
  counters : CountersInv s
  ports : PortInv s
  slots : SlotInv s
  gates : GateInv s
  feeds : FeedInv s
  trolley : TrolleyInv s
  rest : RestInv s
  festoon : FestoonInv s
  valid : ValidInv s
  quality : QualityInv s

end Sys2Proof.Machine
end

