-- ==== Sys2Proof/Certificates/Slice0/Obligations.lean ====
section
/-! DEFINITION. The statements about the model that the provers are asked to prove. -/

open Sys2Proof Sys2Proof.Machine

/-! ### Steps -/

/-- A step takes the command at the front of the queue and executes it on the state with the queue's rest; on an empty queue the part
idles, which is the model's choice (log 2). -/
def Obligations.StepRunsFrontCommand : Prop :=
  (∀ (c : Instr) (q : List Instr) (s : State), step (s.withPending (c :: q)) = exec c (s.withPending q)) ∧
  (∀ s : State, s.pending = [] → step s = .next s)

/-- Every command answers a next state, and none touches the queue of commands that wait. The queue is the model's own field, kept over
POWER_ON too (log 21). That a command whose event cannot occur in the present state answers that state is the model's choice (log 1), and
so is what it answers while the reset input is asserted (log 20). -/
def Obligations.EveryCommandAnswersAndKeepsQueue : Prop :=
  ∀ (c : Instr) (s : State), ∃ t, exec c s = .next t ∧ t.pending = s.pending

/-! ### Power, reset, time -/

/-- R153 with R1, R6, R34, R40 to R42, R67, R77, R82, R83, R85, R105, R106, R119 to R121, R130 to R134, R138, R143, R144, R152, R171,
R172, R174: POWER_ON and RESET_INPUT_RELEASE leave the power-on state, whatever the part was in: every field of it but the free draws of
log 14. That no reset is asserted is the model's reading (log 20), and so are its lists of what is handed over and its count of L2 requests,
all empty (logs 18 and 19). That the overrun flags are clear (log 24), that the lines count as rested (log 5), that the commands are taken in
every state and that the queue of commands is kept (log 21) is its choice. -/
def Obligations.PowerOnAndResetReleaseState : Prop :=
  ∀ (strap : BitVec 5) (s : State), ∃ t, exec (.powerOn strap) s = .next t ∧ exec (.resetInputRelease strap) s = .next t ∧
    t.resetHeld = false ∧ t.operating = .config ∧ t.validated = false ∧ t.timestamp = 0 ∧ t.events = [] ∧ t.ovf = false ∧
    (∀ i, t.image.get i = ⟨0, .absent, 65535, none⟩) ∧
    (∀ l, t.port l = ⟨.off, ⟨0, .active, .kbit500, .rested⟩, .none, none, none, false, false, [], none⟩) ∧
    t.attached = none ∧ (∀ p, t.serials.get p = 0) ∧ t.searchTimer = none ∧ t.hail = .off ∧ t.unknownCode = none ∧
    (∀ e, t.masterRt.get e = ⟨.disabled, 0, false, 0⟩) ∧ (∀ k, t.fp.slots.get k = ⟨.disabled, none, 0⟩) ∧
    t.fp = ⟨.listening, ⟨0, .active, .kbit500, .rested⟩, if strap = 0 then 1 else if strap = 31 then 30 else strap, none, false, none,
      t.fp.slots⟩ ∧
    (∀ g, t.gateRt.get g = ⟨.closed, 0, .closed⟩) ∧ t.sweepTimer = none ∧
    (∀ c, t.tio.channels.get c = ⟨.normal, 0, 0⟩) ∧ (∀ i, t.tio.inputs.get i = ⟨false, 0⟩) ∧
    t.tio = ⟨t.tio.channels, t.tio.inputs, true, 0, none, false, 0⟩ ∧
    (∀ d, t.feedRt.get d = ⟨.good, 0, [], []⟩) ∧ (∀ w, t.watchLast.get w = none) ∧ t.pending = s.pending ∧
    (∀ a, t.tables.areas.get a = ⟨false, 0, 0, .spreader, false⟩) ∧ (∀ l, t.tables.lines.get l = ⟨false, .kbit500, 10, 100⟩) ∧
    (∀ p, t.tables.profiles.get p = ⟨false, 0⟩) ∧
    (∀ e, t.tables.masterSlots.get e = ⟨false, .inbound, 0, 0, 0, 0, 0, 0, 0, false, none⟩) ∧
    (∀ k, t.tables.festoonSlots.get k = ⟨false, .inbound, 0, 0, 0, 0, 0, none⟩) ∧
    (∀ p, t.tables.placements.get p = ⟨.inbound, 0, 0, false, ⟨0, none, .x1⟩, none, none, 0⟩) ∧
    (∀ c, t.tables.conversions.get c = ⟨false, 0, 0, 0, 0, 0, 0⟩) ∧
    (∀ g, t.tables.gates.get g = ⟨false, 0, 0, false, false, none, 0, none⟩) ∧ t.tables.sweepPeriod = 2 ∧
    (∀ k, t.tables.terms.get k = ⟨⟨0, none, .x1⟩, .eq, false, 0⟩) ∧ (∀ c, t.tables.channels.get c = ⟨false, false⟩) ∧
    (∀ i, t.tables.inputQ.get i = 3) ∧ t.tables.l0 = ⟨0, 0⟩ ∧ t.tables.l1 = ⟨0, 0⟩ ∧ t.tables.l2 = ⟨0, 0⟩ ∧ t.tables.scanPeriod = 5 ∧
    (∀ d, t.tables.feeds.get d = ⟨false, 0, 0, 0, 0⟩) ∧ (∀ w, t.tables.watch.get w = ⟨false, 0, 0⟩)

/-- R153: RESET_INPUT_ASSERT cuts every line, turns every relay off and drops what is in flight; while it is asserted no command but the
three of the reset itself is taken (that all else waits as it was is the model's reading, log 20). -/
def Obligations.ResetInputStopsThePart : Prop :=
  (∀ s : State, ∃ t, exec .resetInputAssert s = .next t ∧
    (∀ d, t.feedRt.get d = { s.feedRt.get d with handovers := [], orders := [] }) ∧
    t = { s with
      resetHeld := true
      sp := { s.sp with turn := .none, link := { s.sp.link with phase := .ignoring } }
      cp := { s.cp with turn := .none, link := { s.cp.link with phase := .ignoring } }
      hail := .off
      fp := { s.fp with due := none, restartPending := false, link := { s.fp.link with phase := .ignoring } }
      tio := { s.tio with relays := 0, scanInFlight := false, l2Requests := 0 }
      feedRt := t.feedRt }) ∧
  (∀ (c : Instr) (s : State), s.resetHeld = true → (∀ strap, c ≠ .powerOn strap) → c ≠ .resetInputAssert →
    (∀ strap, c ≠ .resetInputRelease strap) → exec c s = .next s)

/-- R2, R152: at AGE_TIMER_EXPIRY every age advances by one and saturates at 65535, the timestamp counter advances and passes from 65535
to 0, in both operating states, and nothing else changes. -/
def Obligations.AgesAndTimestampAdvance : Prop :=
  ∀ s : State, s.awake → ∃ t, exec .ageTimerExpiry s = .next t ∧
    (∀ i, t.image.get i = { s.image.get i with age := if (s.image.get i).age < 65535 then (s.image.get i).age + 1 else 65535 }) ∧
    t.timestamp.toNat = (s.timestamp.toNat + 1) % 65536 ∧
    t = { s with image := t.image, timestamp := t.timestamp }

/-- R162, R163, R166: RESTART replies DONE in either state and leaves a warm restart pending. WARM_RESTART, with the reply ended: the
queue, OVF, the counter and the scores are cleared, the part enters CONFIG, and enters RUN again exactly when the validated flag is yes.
`festoonGood` is the part after a command's frame has been judged good (R69, R77, R127). A reception that was not announced begins with
the row that ends it (log 7, the model's choice). That WARM_RESTART is the end of the reply's frame is the model's reading (log 6), and so
is that a port that starts needs a new rest of its line (log 27); that the Cab Port's first turn is chosen at once and then due is its
choice (log 10). -/
def Obligations.RestartPendsThenTakesEffect : Prop :=
  (∀ s : State, s.awake → s.fp.restartPending = true → (∃ f r, s.fp.link.phase = .sending f r) →
    ∃ m t : State, exec .warmRestart s = .next { t with fp := { t.fp with link := { t.fp.link with phase := .rested } } } ∧
      ConfigEntry { s with
        events := [], ovf := false, timestamp := 0
        sp := { s.sp with link := { s.sp.link with score := 0, health := .active } }
        cp := { s.cp with link := { s.cp.link with score := 0, health := .active } }
        fp := { s.fp with link := { s.fp.link with score := 0, health := .active }, restartPending := false } } m ∧
      (s.validated = false → t = m) ∧ (s.validated = true → RunEntry m t)) ∧
  (∀ (tag : BitVec 6) (req : List Byte) (s : State), s.awake → s.festoonReceives = true → requestFits req = true →
    let u := s.festoonGood
    exec (.restart tag req) s =
      .next (State.replying tag 0x04 0x00 [] u.fp.link.rate { u with fp := { u.fp with restartPending := true } }))

/-! ### Management commands. `festoonGood` is the part after the command's frame has been judged good (R69, R77, R127). -/

/-- R165, R74: STATUS replies DONE with its 16 bytes and changes nothing else. A reception that was not announced begins with the
command's frame (log 7, the model's choice). -/
def Obligations.StatusReportsThePart : Prop :=
  ∀ (tag : BitVec 6) (req : List Byte) (s : State), s.awake → s.festoonReceives = true → requestFits req = true →
    let u := s.festoonGood
    exec (.status tag req) s = .next (u.replying tag 0x01 0x00
      [ (match u.operating with | .config => 0 | .run => 1)
      , (if u.validated then 1 else 0)
      , (match u.sp.state with | .off => 0 | .search => 1 | .cycling => 2 | .held => 3 | .detached => 4)
      , (match u.sp.link.health with | .active => 0 | .degraded => 1)
      , (match u.attached with | none => 0xFF | some p => BitVec.ofNat 8 p.val)
      , (match u.cp.state with | .off => 0 | .search => 1 | .cycling => 2 | .held => 3 | .detached => 4)
      , (match u.cp.link.health with | .active => 0 | .degraded => 1)
      , (match u.fp.link.health with | .active => 0 | .degraded => 1)
      , (match (u.feedRt.get 0).state with | .good => 0 | .dipping => 1 | .low => 2 | .recovering => 3)
      , (match (u.feedRt.get 1).state with | .good => 0 | .dipping => 1 | .low => 2 | .recovering => 3)
      , BitVec.ofNat 8 u.events.length
      , (if u.ovf then 1 else 0)
      , BitVec.ofNat 8 u.forceCount
      , 0x16, 0x02, 3 ] u.fp.link.rate)

/-- R161, R166: ENTER_CONFIG in CONFIG replies DONE and changes nothing; in RUN it replies DONE and the part enters CONFIG. R158, R166,
R67: ENTER_RUN is refused STATE in RUN; in CONFIG it replies INVALID with the first failure and changes nothing, or the flag becomes yes
and the part enters RUN, the reply going out at the old rate. What `Tables.validate` finds is the content of
`ValidationFindsTheFirstFailure`. A reception that was not announced begins with the command's frame (log 7, the model's choice). That a
port that starts needs a new rest of its line is the model's reading (log 27), and that the Cab Port's first turn is chosen at once and
then due is its choice (log 10). -/
def Obligations.EnterConfigAndEnterRun : Prop :=
  (∀ (tag : BitVec 6) (req : List Byte) (s : State), s.awake → s.festoonReceives = true → requestFits req = true →
    let u := s.festoonGood
    (u.operating = .config → exec (.enterConfig tag req) s = .next (u.replying tag 0x02 0x00 [] u.fp.link.rate)) ∧
    (u.operating = .run → ∃ t, ConfigEntry u t ∧
      exec (.enterConfig tag req) s = .next (t.replying tag 0x02 0x00 [] u.fp.link.rate))) ∧
  (∀ (tag : BitVec 6) (req : List Byte) (s : State), s.awake → s.festoonReceives = true → requestFits req = true →
    let u := s.festoonGood
    (u.operating = .run → exec (.enterRun tag req) s = .next (u.replying tag 0x03 0x02 [] u.fp.link.rate)) ∧
    (∀ f, u.operating = .config → u.tables.validate = some f →
      exec (.enterRun tag req) s = .next (u.replying tag 0x03 0x06
        [BitVec.ofNat 8 (tableCode f.table), BitVec.ofNat 8 f.entry, BitVec.ofNat 8 (f.entry / 256),
          BitVec.ofNat 8 (reasonCode f.reason)] u.fp.link.rate)) ∧
    (u.operating = .config → u.tables.validate = none → ∃ t, RunEntry { u with validated := true } t ∧
      exec (.enterRun tag req) s = .next (t.replying tag 0x03 0x00 [] u.fp.link.rate)))

/-- R72, R164: an empty payload or an unknown code is answered UNKNOWN, and a request shorter than its command needs is refused RANGE;
neither changes anything else. A reception that was not announced begins with the command's frame (log 7, the model's choice). -/
def Obligations.UnknownAndShortRequestsAnswered : Prop :=
  ∀ (tag : BitVec 6) (s : State), s.awake → s.festoonReceives = true →
    let u := s.festoonGood
    let range := fun code : Nat => Host.Outcome.next (φ := Fault) (ρ := Refusal) (u.replying tag code 0x03 [] u.fp.link.rate)
    exec (.unknownCommand tag []) s = .next (u.replying tag 0x00 0x07 [] u.fp.link.rate) ∧
    (∀ (code : Byte) (rest : List Byte), knownCommand code = false → rest.length ≤ 47 →
      exec (.unknownCommand tag (code :: rest)) s = .next (u.replying tag code.toNat 0x07 [] u.fp.link.rate)) ∧
    (∀ req : List Byte, req.length < 4 → exec (.readTable tag req) s = range 0x05) ∧
    (∀ req : List Byte, req.length < 3 → exec (.writeTable tag req) s = range 0x06) ∧
    (∀ req : List Byte, req.length < 3 → exec (.readSignals tag req) s = range 0x07) ∧
    (∀ req : List Byte, req.length < 4 → exec (.writeSignal tag req) s = range 0x08) ∧
    (∀ req : List Byte, req.length < 4 → exec (.force tag req) s = range 0x09) ∧
    (∀ req : List Byte, req.length < 2 → exec (.release tag req) s = range 0x0A) ∧
    (∀ req : List Byte, req.length < 2 → exec (.sendOnce tag req) s = range 0x0C) ∧
    (∀ req : List Byte, req.length < 1 → exec (.readEvents tag req) s = range 0x0D)

/-- R167, R73, R76: READ_TABLE returns whole records in ascending index until the count, the table's last entry or the 42 bytes end them,
and changes nothing; a reply that shows an unset last-reported view uses up one draw of the model's free value (log 14). A record is the
written part, laid out as `WrittenRecordsReadBack` says, and then the runtime fields of R41, R84, R105, R120, R130, R143 and R174. The
bytes of an unset view are free (log 14) and a festoon status is coded by its own list (log 16). A reception that was not announced begins
with the command's frame (log 7, the model's choice). -/
def Obligations.ReadTableReturnsWholeRecords : Prop :=
  (∀ (tag : BitVec 6) (req : List Byte) (s : State), s.awake → s.festoonReceives = true → requestFits req = true → 4 ≤ req.length →
    let u := s.festoonGood
    (∀ table, tableOfCode (byteAt req 0) = some table → wordAt req 1 < tableSize table →
      ∃ records : List (List Byte),
        records.length ≤ byteAt req 3 ∧ records.flatten.length ≤ 42 ∧
        (∀ j, j < records.length → u.recordBytes table (wordAt req 1 + j) = records[j]?) ∧
        (records.length = byteAt req 3 ∨ wordAt req 1 + records.length = tableSize table ∨
          ∃ r, u.recordBytes table (wordAt req 1 + records.length) = some r ∧ 42 < records.flatten.length + r.length) ∧
        exec (.readTable tag req) s = .next (State.replying tag 0x05 (if records.length = byteAt req 3 then 0x00 else 0x01)
          (BitVec.ofNat 8 (tableCode table) :: BitVec.ofNat 8 (wordAt req 1) :: BitVec.ofNat 8 (wordAt req 1 / 256) ::
            BitVec.ofNat 8 records.length :: records.flatten) u.fp.link.rate
          { u with freeDraws := if table = .watch then u.freeDraws + 1 else u.freeDraws })) ∧
    (tableOfCode (byteAt req 0) = none ∨ (∃ table, tableOfCode (byteAt req 0) = some table ∧ tableSize table ≤ wordAt req 1) →
      exec (.readTable tag req) s = .next (u.replying tag 0x05 0x03 [] u.fp.link.rate))) ∧
  (∀ s : State,
    let byte := fun n : Nat => BitVec.ofNat 8 n
    let word := fun n : Nat => [BitVec.ofNat 8 n, BitVec.ofNat 8 (n / 256)]
    let flag := fun b : Bool => if b then (1 : Byte) else 0
    ([.area, .line, .profile, .slot, .placement, .conversion, .gate, .term, .trolley, .feed, .watch].map tableSize =
      [8, 3, 4, 96, 384, 64, 33, 256, 36, 2, 8]) ∧
    (∀ table i, s.recordBytes table i = none ↔ tableSize table ≤ i) ∧
    (∀ k : Fin 8, s.recordBytes .area k.val = some (areaBytes (s.tables.areas.get k))) ∧
    (∀ k : Fin 3, s.recordBytes .line k.val = some (lineBytes (s.tables.lines.get k))) ∧
    (∀ p : ProfileIx, s.recordBytes .profile p.val = some (profileBytes (s.tables.profiles.get p) ++
      [flag (decide (s.attached = some p))] ++ (let n := (s.serials.get p).toNat; word n ++ word (n / 65536)))) ∧
    (∀ e : MasterIx, s.recordBytes .slot e.val = some (masterBytes (s.tables.masterSlots.get e) ++
      [ (match (s.masterRt.get e).status with | .disabled => 0 | .awaiting => 1 | .live => 2 | .missing => 3 | .lost => 4)
      , byte (s.masterRt.get e).misses, flag (s.masterRt.get e).armed ] ++ word (s.masterRt.get e).arrival.toNat)) ∧
    (∀ k : SlotIx, s.recordBytes .slot (80 + k.val) = some (festoonBytes (s.tables.festoonSlots.get k) ++
      [(match (s.fp.slots.get k).status with | .disabled => (0 : Byte) | .awaiting => 1 | .live => 2 | .lost => 3)] ++
      word (s.fp.slots.get k).arrival.toNat)) ∧
    (∀ k : Fin 384, s.recordBytes .placement k.val = some (placementBytes (s.tables.placements.get k))) ∧
    (∀ k : Fin 64, s.recordBytes .conversion k.val = some (conversionBytes (s.tables.conversions.get k))) ∧
    (∀ g : GateIx, s.recordBytes .gate g.val = some (gateBytes (s.tables.gates.get g) ++
      [(match (s.gateRt.get g).state with | .closed => 0 | .rising => 1 | .opened => 2 | .locked => 3), byte (s.gateRt.get g).count])) ∧
    (s.recordBytes .gate 32 = some [byte s.tables.sweepPeriod]) ∧
    (∀ k : Fin 256, s.recordBytes .term k.val = some (termBytes (s.tables.terms.get k))) ∧
    (∀ c : Fin 16, s.recordBytes .trolley c.val = some (channelBytes (s.tables.channels.get c) ++
      [(match (s.tio.channels.get c).state with | .normal => 0 | .opened => 1), byte (s.tio.channels.get c).openCount] ++
      word (s.tio.channels.get c).last.toNat)) ∧
    (∀ i : Fin 16, s.recordBytes .trolley (16 + i.val) =
      some [byte (s.tables.inputQ.get i), flag (s.tio.inputs.get i).level, byte (s.tio.inputs.get i).changes]) ∧
    (s.recordBytes .trolley 32 = some (lSlotBytes s.tables.l0) ∧ s.recordBytes .trolley 33 = some (lSlotBytes s.tables.l1) ∧
      s.recordBytes .trolley 34 = some (lSlotBytes s.tables.l2 ++ [s.tio.relays]) ∧
      s.recordBytes .trolley 35 = some [byte s.tables.scanPeriod]) ∧
    (∀ d : Fin 2, s.recordBytes .feed d.val = some (feedBytes (s.tables.feeds.get d) ++
      [(match (s.feedRt.get d).state with | .good => 0 | .dipping => 1 | .low => 2 | .recovering => 3), byte (s.feedRt.get d).count])) ∧
    (∀ w : Fin 8,
      (s.watchLast.get w = none → ∃ x y z, s.recordBytes .watch w.val = some (watchBytes (s.tables.watch.get w) ++ [0, x, y, z])) ∧
      (∀ value quality, s.watchLast.get w = some (value, quality) → s.recordBytes .watch w.val =
        some (watchBytes (s.tables.watch.get w) ++ [1, BitVec.ofInt 8 value, BitVec.ofInt 8 (value / 256),
          (match quality with
            | .stored .good => 0 | .stored .clamped => 1 | .stored (.suspect .short) => 2 | .stored (.suspect .opened) => 3
            | .stored (.suspect .feed) => 4 | .stored .stale => 5 | .stored .absent => 6 | .forced => 7)]))))

/-- R155, R157, R168, R174, R6: an accepted WRITE_TABLE replaces its entry and replies DONE, or DONE_CLAMPED after a clamp; a WATCH write
unsets the entry's last-reported view and leaves the flag, any other clears the flag, and an AREA write clears what leaves the PANEL
areas. A refused one changes nothing. Which writes are refused is the content of `WritesRefuseWhatIsOutOfRange`, and what an accepted one
stores that of `WrittenRecordsReadBack`. A reception that was not announced begins with the command's frame (log 7, the model's choice). -/
def Obligations.WriteTableReplacesOrRefuses : Prop :=
  ∀ (tag : BitVec 6) (req : List Byte) (s : State), s.awake → s.festoonReceives = true → requestFits req = true → 3 ≤ req.length →
    let u := s.festoonGood
    let echo := fun table => [BitVec.ofNat 8 (tableCode table), BitVec.ofNat 8 (wordAt req 1), BitVec.ofNat 8 (wordAt req 1 / 256)]
    (tableOfCode (byteAt req 0) = none → exec (.writeTable tag req) s = .next (u.replying tag 0x06 0x03 [] u.fp.link.rate)) ∧
    (∀ table, tableOfCode (byteAt req 0) = some table →
      (u.operating = .run ∧ table ≠ .watch →
        exec (.writeTable tag req) s = .next (u.replying tag 0x06 0x02 [] u.fp.link.rate)) ∧
      (u.operating = .config ∨ table = .watch →
        (u.tables.write table (wordAt req 1) (req.drop 3) = none →
          exec (.writeTable tag req) s = .next (u.replying tag 0x06 0x03 [] u.fp.link.rate)) ∧
        (∀ tables clamped, u.tables.write table (wordAt req 1) (req.drop 3) = some (tables, clamped) →
          ∃ t, exec (.writeTable tag req) s =
              .next (State.replying tag 0x06 (if clamped then 0x01 else 0x00) (echo table) u.fp.link.rate t) ∧
            t.tables = tables ∧ (t.validated = if table = .watch then u.validated else false) ∧
            (∀ w, t.watchLast.get w = if table = .watch ∧ w.val = wordAt req 1 then none else u.watchLast.get w) ∧
            (∀ i, t.image.get i = if table = .area ∧ u.tables.ownedBy .panel i = true ∧ tables.ownedBy .panel i = false
              then (u.image.get i).emptied else u.image.get i) ∧
            t = { u with tables := t.tables, validated := t.validated, watchLast := t.watchLast, image := t.image })))

/-- R155, R156, R76, R6, R8, R20, R34, R40 to R42, R82 to R84, R105, R120, R130, R143, R174: WRITE_TABLE refuses a write exactly when the
entry lies past its table, the record is shorter than the entry's kind needs, or a structural field lies outside its range. A flag byte
other than 0 and 1 is outside its range, and of an absent re-arm address only the base field is examined (logs 23 and 17, the model's
readings). Bytes beyond the record are ignored, and no timing field is a ground for refusal. -/
def Obligations.WritesRefuseWhatIsOutOfRange : Prop :=
  ∀ (t : Tables) (bs : List Byte) (n : Nat),
    let b := fun k => (bs.getD k 0).toNat
    let w := fun k => b k + 256 * b (k + 1)
    let signed := fun k : Nat => if w k < 32768 then (w k : Int) else (w k : Int) - 65536
    let address := fun k => w k ≤ 511 ∧ (w (k + 2) = 0xFFFF ∨ w (k + 2) ≤ 511) ∧ b (k + 4) ∈ [1, 2, 4, 8, 16]
    let chain := fun k => b k = 0xFF ∨ (b k ≤ 1 ∧ b (k + 1) ≤ 15) ∨ (b k = 3 ∧ b (k + 1) = 2)
    let taken := fun table => (t.write table n bs).isSome = true
    (taken .area ↔ n ≤ 7 ∧ 7 ≤ bs.length ∧ b 0 ≤ 1 ∧ w 1 ≤ 511 ∧ w 3 ≤ 511 ∧ b 5 ≤ 5 ∧ b 6 ≤ 1) ∧
    (taken .line ↔ n ≤ 2 ∧ 5 ≤ bs.length ∧ b 0 ≤ 1 ∧ b 1 ≤ 2) ∧
    (taken .profile ↔ n ≤ 3 ∧ 3 ≤ bs.length ∧ b 0 ≤ 1) ∧
    (taken .slot ↔
      (n ≤ 79 ∧ 14 ≤ bs.length ∧ b 0 ≤ 1 ∧ b 1 ≤ 1 ∧ b 2 ≤ 63 ∧ 1 ≤ b 3 ∧ b 3 ≤ (if b 1 = 0 then 30 else 31) ∧ b 4 ≤ 16 ∧
        w 8 ≤ 383 ∧ b 10 ≤ 24 ∧ b 11 ≤ 1 ∧ chain 12) ∨
      (80 ≤ n ∧ n ≤ 95 ∧ 11 ≤ bs.length ∧ b 0 ≤ 1 ∧ b 1 ≤ 1 ∧ b 2 ≤ 63 ∧ b 3 ≤ 16 ∧ w 4 ≤ 383 ∧ b 6 ≤ 24 ∧ chain 9)) ∧
    (taken .placement ↔ n ≤ 383 ∧ 13 ≤ bs.length ∧ b 0 ≤ 1 ∧ 1 ≤ b 2 ∧ b 2 ≤ 16 ∧ b 3 ≤ 1 ∧ address 4 ∧
      (b 9 = 0xFF ∨ b 9 ≤ 63) ∧ (b 10 = 0xFF ∨ b 10 ≤ 31)) ∧
    (taken .conversion ↔ n ≤ 63 ∧ 12 ≤ bs.length ∧ b 0 ≤ 1 ∧ b 5 ≤ 15 ∧ signed 8 ≤ signed 10) ∧
    (taken .gate ↔
      (n ≤ 31 ∧ 14 ≤ bs.length ∧ b 0 ≤ 1 ∧ b 1 ≤ 8 ∧ b 3 ≤ 1 ∧ b 4 ≤ 1 ∧ (w 5 = 0xFFFF ∨ address 5) ∧ w 10 ≤ 511 ∧ chain 12) ∨
      (n = 32 ∧ 1 ≤ bs.length)) ∧
    (taken .term ↔ n ≤ 255 ∧ 9 ≤ bs.length ∧ address 0 ∧ b 5 ≤ 7 ∧ b 6 ≤ 1) ∧
    (taken .trolley ↔
      (n ≤ 15 ∧ 2 ≤ bs.length ∧ b 0 ≤ 1 ∧ b 1 ≤ 1) ∨ (16 ≤ n ∧ n ≤ 31 ∧ 1 ≤ bs.length) ∨
      (32 ≤ n ∧ n ≤ 34 ∧ 3 ≤ bs.length ∧ w 0 ≤ 383 ∧ b 2 ≤ 24) ∨ (n = 35 ∧ 1 ≤ bs.length)) ∧
    (taken .feed ↔ n ≤ 1 ∧ 7 ≤ bs.length ∧ b 0 ≤ 1 ∧ w 1 ≤ w 3 ∧ w 3 ≤ 4095) ∧
    (taken .watch ↔ n ≤ 7 ∧ 5 ≤ bs.length ∧ b 0 ≤ 1 ∧ w 1 ≤ 511 ∧ w 3 ≤ 32767)

/-- R76, R155, R156: the bytes of each kind of record, field by field, and what a write of them, whatever bytes follow, stores. Every
structural field stands at any value of its range and is stored as given. Every timing field stands at any value its bytes hold and, in a
record in which it is used, is stored as the nearer end of its range, with the flag of DONE_CLAMPED exactly when some field was outside;
in any other record it is stored as given (for LINE entries this is the model's reading, log 15). The five ones of an absent re-arm
address are its reading too (log 17). -/
def Obligations.WrittenRecordsReadBack : Prop :=
  (let byte := fun n : Nat => BitVec.ofNat 8 n
    let word := fun n : Nat => [BitVec.ofNat 8 n, BitVec.ofNat 8 (n / 256)]
    let signed := fun v : Int => [BitVec.ofInt 8 v, BitVec.ofInt 8 (v / 256)]
    let flag := fun b : Bool => if b then (1 : Byte) else 0
    let direction := fun d : Direction => match d with | .inbound => (0 : Byte) | .outbound => 1
    let address := fun a : SigAddr => word a.base.val ++ (match a.selector with | none => [0xFF, 0xFF] | some i => word i.val) ++
      [(match a.scale with | .x1 => (1 : Byte) | .x2 => 2 | .x4 => 4 | .x8 => 8 | .x16 => 16)]
    let chain := fun c : Option ChainTarget => match c with
      | none => [(0xFF : Byte), 0xFF] | some (.sp k) => [0, byte k.val] | some (.cp k) => [1, byte k.val] | some .l => [3, 2]
    (∀ a : AreaEntry, areaBytes a = [flag a.enabled] ++ word a.first.val ++ word a.last.val ++
      [(match a.owner with | .spreader => 0 | .cab => 1 | .festoon => 2 | .trolley => 3 | .gate => 4 | .panel => 5), flag a.forceable]) ∧
    (∀ e : LineEntry, lineBytes e = [flag e.enabled, (match e.rate with | .kbit250 => 0 | .kbit500 => 1 | .kbit1000 => 2),
      byte e.cyclePeriod] ++ word e.searchInterval) ∧
    (∀ p : Profile, profileBytes p = [flag p.enabled] ++ word p.typeCode.toNat) ∧
    (∀ m : MasterSlot, masterBytes m = [flag m.enabled, direction m.direction, byte m.tag.toNat, byte m.node.toNat, byte m.length] ++
      word m.window ++ [byte m.missLimit] ++ word m.first ++ [byte m.count, flag m.once] ++ chain m.chain) ∧
    (∀ f : FestoonSlot, festoonBytes f = [flag f.enabled, direction f.direction, byte f.tag.toNat, byte f.length] ++ word f.first ++
      [byte f.count] ++ word f.staleLimit ++ chain f.chain) ∧
    (∀ p : Placement, placementBytes p = [direction p.direction, byte p.offset, byte p.width, flag p.signed] ++ address p.addr ++
      [(match p.conversion with | none => 0xFF | some c => byte c.val), (match p.gate with | none => 0xFF | some g => byte g.val)] ++
      word p.safe.toNat) ∧
    (∀ c : Conversion, conversionBytes c = [flag c.enabled] ++ signed c.o ++ signed c.g ++ [byte c.s] ++ signed c.c ++ signed c.lo ++
      signed c.hi) ∧
    (∀ g : Gate, gateBytes g = [flag g.enabled, byte g.termCount, byte g.k, flag g.acceptForced, flag g.latching] ++
      (match g.rearm with | none => [0xFF, 0xFF, 0xFF, 0xFF, 0xFF] | some a => address a) ++ word g.output.val ++ chain g.chain) ∧
    (∀ t : Term, termBytes t = address t.addr ++ [(match t.test with
      | .eq => 0 | .ge => 1 | .le => 2 | .any => 3 | .all => 4 | .fresh => 5 | .gate => 6 | .always => 7), flag t.negate] ++
      word t.k.toNat) ∧
    (∀ c : Channel, channelBytes c = [flag c.enabled, flag c.openCheck]) ∧
    (∀ l : LSlot, lSlotBytes l = word l.first ++ [byte l.count]) ∧
    (∀ f : FeedEntry, feedBytes f = [flag f.enabled] ++ word f.low ++ word f.recover ++ [byte f.nL, byte f.nG]) ∧
    (∀ w : WatchEntry, watchBytes w = [flag w.enabled] ++ word w.signal.val ++ word w.deadband)) ∧
  (∀ (t : Tables) (rest : List Byte),
    let nearer := fun lo hi n : Nat => if n < lo then lo else if hi < n then hi else n
    let outside := fun lo hi n : Nat => decide (n < lo ∨ hi < n)
    (∀ (k : Fin 8) a, t.write .area k.val (areaBytes a ++ rest) = some ({ t with areas := t.areas.set k a }, false)) ∧
    (∀ (k : Fin 3) (e : LineEntry), e.cyclePeriod ≤ 255 → e.searchInterval ≤ 65535 →
      t.write .line k.val (lineBytes e ++ rest) = some ({ t with lines := t.lines.set k { e with
          cyclePeriod := if k = 2 then e.cyclePeriod else nearer 2 100 e.cyclePeriod
          searchInterval := if k = 0 then nearer 20 500 e.searchInterval else e.searchInterval } },
        (k != 2 && outside 2 100 e.cyclePeriod) || (k == 0 && outside 20 500 e.searchInterval))) ∧
    (∀ (k : Fin 4) p, t.write .profile k.val (profileBytes p ++ rest) = some ({ t with profiles := t.profiles.set k p }, false)) ∧
    (∀ (k : Fin 80) (m : MasterSlot), 1 ≤ m.node.toNat → (m.direction = .inbound → m.node.toNat ≤ 30) → m.length ≤ 16 →
      m.window ≤ 65535 → m.missLimit ≤ 255 → m.first ≤ 383 → m.count ≤ 24 →
      t.write .slot k.val (masterBytes m ++ rest) =
        match m.direction with
        | .inbound => some ({ t with masterSlots := t.masterSlots.set k { m with
            window := nearer 20 1000 m.window, missLimit := nearer 1 15 m.missLimit } },
            outside 20 1000 m.window || outside 1 15 m.missLimit)
        | .outbound => some ({ t with masterSlots := t.masterSlots.set k m }, false)) ∧
    (∀ (k : Fin 16) (f : FestoonSlot), f.length ≤ 16 → f.first ≤ 383 → f.count ≤ 24 → f.staleLimit ≤ 65535 →
      t.write .slot (80 + k.val) (festoonBytes f ++ rest) =
        match f.direction with
        | .inbound => some ({ t with festoonSlots := t.festoonSlots.set k { f with staleLimit := nearer 5 1000 f.staleLimit } },
            outside 5 1000 f.staleLimit)
        | .outbound => some ({ t with festoonSlots := t.festoonSlots.set k f }, false)) ∧
    (∀ (k : Fin 384) (p : Placement), p.offset ≤ 255 → 1 ≤ p.width → p.width ≤ 16 →
      t.write .placement k.val (placementBytes p ++ rest) = some ({ t with placements := t.placements.set k p }, false)) ∧
    (∀ (k : Fin 64) (c : Conversion), signalRange c.o → signalRange c.g → c.s ≤ 15 → signalRange c.c → signalRange c.lo →
      signalRange c.hi → c.lo ≤ c.hi →
      t.write .conversion k.val (conversionBytes c ++ rest) = some ({ t with conversions := t.conversions.set k c }, false)) ∧
    (∀ (k : Fin 32) (g : Gate), g.termCount ≤ 8 → g.k ≤ 255 →
      t.write .gate k.val (gateBytes g ++ rest) =
        some ({ t with gates := t.gates.set k { g with k := nearer 1 15 g.k } }, outside 1 15 g.k)) ∧
    (∀ n : Byte, t.write .gate 32 (n :: rest) = some ({ t with sweepPeriod := nearer 1 20 n.toNat }, outside 1 20 n.toNat)) ∧
    (∀ (k : Fin 256) a, t.write .term k.val (termBytes a ++ rest) = some ({ t with terms := t.terms.set k a }, false)) ∧
    (∀ (k : Fin 16) a, t.write .trolley k.val (channelBytes a ++ rest) = some ({ t with channels := t.channels.set k a }, false)) ∧
    (∀ (k : Fin 16) (n : Byte), t.write .trolley (16 + k.val) (n :: rest) =
      some ({ t with inputQ := t.inputQ.set k (nearer 1 7 n.toNat) }, outside 1 7 n.toNat)) ∧
    (∀ l : LSlot, l.first ≤ 383 → l.count ≤ 24 →
      t.write .trolley 32 (lSlotBytes l ++ rest) = some ({ t with l0 := l }, false) ∧
      t.write .trolley 33 (lSlotBytes l ++ rest) = some ({ t with l1 := l }, false) ∧
      t.write .trolley 34 (lSlotBytes l ++ rest) = some ({ t with l2 := l }, false)) ∧
    (∀ n : Byte, t.write .trolley 35 (n :: rest) = some ({ t with scanPeriod := nearer 2 50 n.toNat }, outside 2 50 n.toNat)) ∧
    (∀ (k : Fin 2) (f : FeedEntry), f.low ≤ f.recover → f.recover ≤ 4095 → f.nL ≤ 255 → f.nG ≤ 255 →
      t.write .feed k.val (feedBytes f ++ rest) =
        some ({ t with feeds := t.feeds.set k { f with nL := nearer 1 15 f.nL, nG := nearer 1 15 f.nG } },
          outside 1 15 f.nL || outside 1 15 f.nG)) ∧
    (∀ (k : Fin 8) (w : WatchEntry), w.deadband ≤ 32767 →
      t.write .watch k.val (watchBytes w ++ rest) = some ({ t with watch := t.watch.set k w }, false)))

/-- R158, R159: `Tables.validate`, the checks of ENTER_RUN, finds nothing exactly when no entry fails for any reason; and what it finds is
the entry that fails for the first reason of R73's list for which any entry fails, and among those the first in ascending table id and
entry. `Tables.Fails` states each reason in the words of R6, R24 to R26, R62 to R64, R101 to R104, R118, R129, R142 and R151. The premise,
R40's range of a term count, is a law of the part (`GateInv.terms`). The codes of the reasons and the tables are those of R73. -/
def Obligations.ValidationFindsTheFirstFailure : Prop :=
  (∀ t : Tables, (∀ g, (t.gates.get g).termCount ≤ 8) →
    (t.validate = none ↔ ∀ reason table n, ¬t.Fails reason table n) ∧
    (∀ f, t.validate = some f ↔ t.Fails f.reason f.table f.entry ∧
      (∀ reason table n, reasonCode reason < reasonCode f.reason → ¬t.Fails reason table n) ∧
      (∀ table n, entryBefore table n f.table f.entry → ¬t.Fails f.reason table n))) ∧
  ([.areaOverlap, .areaBounds, .slotTagDup, .slotLength, .placeField, .placeOwner, .placeOverlap, .placeSelector, .placeConv, .placeGate,
    .placeSafe, .writerDup, .profileCodeDup, .profileNone, .cycleBudget, .gateTerms, .termSignal, .termGate, .gateOutput, .gateRearm,
    .chainTarget, .channelOff, .feedChannel].map reasonCode = List.range' 1 23) ∧
  ([.area, .line, .profile, .slot, .placement, .conversion, .gate, .term, .trolley, .feed, .watch].map tableCode = List.range' 1 11)

/-- R6, R24 to R26, R62 to R64, R101 to R104, R118, R129, R142, R151: what tables that have passed the checks of ENTER_RUN are, and so the
tables of every run (`ValidInv`): ordered and disjoint areas; tags, lengths and placements that fit their slots; every IN placement
on one fixed index of its own line's area, and one writing placement of an index in every set that can run together; enabled gates and
conversions; distinct type codes, each with an IN slot; sets within their cycle; gates with terms, outputs and re-arm signals in the plan;
chains that are served; channels that are read and feeds that are watched, enabled. -/
def Obligations.ValidatedTablesAreConsistent : Prop :=
  ∀ t : Tables, t.validate = none →
    (∀ a, (t.areas.get a).enabled = true → (t.areas.get a).first ≤ (t.areas.get a).last) ∧
    (∀ a b, a ≠ b → (t.areas.get a).enabled = true → (t.areas.get b).enabled = true →
      (t.areas.get a).last < (t.areas.get b).first ∨ (t.areas.get b).last < (t.areas.get a).first) ∧
    (∀ x y, t.Examines x → t.Examines y → x.set = y.set → x.tag = y.tag → x = y) ∧
    (∀ x, t.Examines x → x.direction = .inbound → 1 ≤ x.length) ∧
    (∀ x, t.Places x → x.first + x.count ≤ 384) ∧
    (∀ x j p, t.Places x → t.Names x j p →
      p.direction = x.direction ∧ 1 ≤ p.width ∧ p.offset + p.width ≤ 8 * x.length ∧
      (p.direction = .inbound → p.addr.selector = none ∧ p.gate = none ∧
        t.Assigns (match x.set with | .profile _ => .spreader | .cab => .cab | .festoon => .festoon | .trolley => .trolley) p.addr.base) ∧
      (p.direction = .outbound → p.safe.toNat < 2 ^ p.width) ∧
      (∀ g, p.gate = some g → (t.gates.get g).enabled = true) ∧
      (∀ c, p.conversion = some c → (t.conversions.get c).enabled = true ∧
        (p.direction = .inbound → (t.conversions.get c).lo ≤ 0 ∧ 0 ≤ (t.conversions.get c).hi))) ∧
    (∀ x i j p q, t.Places x → t.Names x i p → t.Names x j q → i ≠ j →
      p.offset + p.width ≤ q.offset ∨ q.offset + q.width ≤ p.offset) ∧
    (∀ x y i j p q, t.Places x → t.Places y → (∀ a b, x.set = .profile a → y.set = .profile b → a = b) → t.Names x i p → t.Names y j q →
      p.direction = .inbound → q.direction = .inbound → p.addr.base = q.addr.base → x = y ∧ i = j) ∧
    (∀ p q, (t.profiles.get p).enabled = true → (t.profiles.get q).enabled = true →
      (t.profiles.get p).typeCode = (t.profiles.get q).typeCode → p = q) ∧
    (∀ p, (t.profiles.get p).enabled = true →
      (∃ k, (t.masterSlots.get (profileEntry p k)).enabled = true ∧ (t.masterSlots.get (profileEntry p k)).direction = .inbound) ∧
      ¬(t.lines.get 0).Exceeded fun k => t.masterSlots.get (profileEntry p k)) ∧
    ((t.lines.get 0).enabled = true → ∃ p, (t.profiles.get p).enabled = true) ∧
    (¬(t.lines.get 1).Exceeded fun k => t.masterSlots.get (cabEntry k)) ∧
    (∀ g, (t.gates.get g).enabled = true →
      1 ≤ (t.gates.get g).termCount ∧ t.Assigns .gate (t.gates.get g).output ∧
      (∀ h, (t.gates.get h).enabled = true → (t.gates.get h).output = (t.gates.get g).output → h = g) ∧
      ((t.gates.get g).latching = true → ∃ a o, (t.gates.get g).rearm = some a ∧ a.selector = none ∧ t.Assigns o a.base) ∧
      (∀ c, (t.gates.get g).chain = some c → t.Serves c) ∧
      (∀ j : Fin 256, g.val * 8 ≤ j.val → j.val < g.val * 8 + (t.gates.get g).termCount →
        ((t.terms.get j).test = .gate → ∃ h : GateIx, h.val = (t.terms.get j).k.toNat ∧ (t.gates.get h).enabled = true) ∧
        ((t.terms.get j).test ≠ .gate → (t.terms.get j).test ≠ .always →
          ∃ o, t.Assigns o ((t.terms.get j).addr.selector.getD (t.terms.get j).addr.base)))) ∧
    (∀ x c, t.Examines x → x.direction = .inbound → x.chain = some c → t.ServesSet x.set c) ∧
    (∀ (j : Nat) (i : Fin 384) (c : Fin 16), j < t.l0.count → i.val = t.l0.first + j → (t.placements.get i).offset / 16 ≤ c.val →
      c.val ≤ ((t.placements.get i).offset + (t.placements.get i).width - 1) / 16 → (t.channels.get c).enabled = true) ∧
    ((t.feeds.get 0).enabled = true → (t.channels.get 15).enabled = true) ∧
    ((t.feeds.get 1).enabled = true → (t.channels.get 14).enabled = true)

/-- R169, R73, R4: READ_SIGNALS returns the views from the first index upward, up to the count, eight signals and signal 511, and changes
nothing; a first index above 511 is refused RANGE. A view is five bytes: its value as two's complement, its quality code and its age. A
reception that was not announced begins with the command's frame (log 7, the model's choice). -/
def Obligations.ReadSignalsReturnsViews : Prop :=
  ∀ (tag : BitVec 6) (req : List Byte) (s : State), s.awake → s.festoonReceives = true → requestFits req = true → 3 ≤ req.length →
    let u := s.festoonGood
    let n := min (byteAt req 2) (min 8 (512 - wordAt req 0))
    let bytes := fun v : View =>
      [ BitVec.ofInt 8 v.value, BitVec.ofInt 8 (v.value / 256)
      , (match v.quality with
          | .stored .good => (0 : Byte) | .stored .clamped => 1 | .stored (.suspect .short) => 2 | .stored (.suspect .opened) => 3
          | .stored (.suspect .feed) => 4 | .stored .stale => 5 | .stored .absent => 6 | .forced => 7)
      , BitVec.ofNat 8 v.age, BitVec.ofNat 8 (v.age / 256) ]
    (wordAt req 0 < 512 →
      ∃ views : List View, views.length = n ∧
        (∀ (i : SigIx), wordAt req 0 ≤ i.val → i.val < wordAt req 0 + n →
          views[i.val - wordAt req 0]? = some (match (u.image.get i).force with
            | none => ⟨(u.image.get i).value, .stored (u.image.get i).quality, (u.image.get i).age⟩
            | some v => ⟨v, .forced, (u.image.get i).age⟩)) ∧
        exec (.readSignals tag req) s = .next (u.replying tag 0x07 (if n = byteAt req 2 then 0x00 else 0x01)
          (BitVec.ofNat 8 (wordAt req 0) :: BitVec.ofNat 8 (wordAt req 0 / 256) :: BitVec.ofNat 8 n :: views.flatMap bytes)
          u.fp.link.rate)) ∧
    (512 ≤ wordAt req 0 → exec (.readSignals tag req) s = .next (u.replying tag 0x07 0x03 [] u.fp.link.rate))

/-- R15: WRITE_SIGNAL writes a PANEL record with quality GOOD and age 0 in either operating state, its force part kept; another record is
refused AREA, an index above 511 RANGE. In RUN the watch entries of the record are checked (R175). The record is checked whether or not
its bytes changed (log 12, the model's reading). A reception that was not announced begins with the command's frame (log 7, the model's
choice). -/
def Obligations.WriteSignalWritesPanelRecords : Prop :=
  ∀ (tag : BitVec 6) (req : List Byte) (s : State), s.awake → s.festoonReceives = true → requestFits req = true → 4 ≤ req.length →
    let u := s.festoonGood
    (∀ i : SigIx, i.val = wordAt req 0 → u.tables.ownedBy .panel i = true →
      exec (.writeSignal tag req) s = .next (Work.mk (State.replying tag 0x08 0x00 [] u.fp.link.rate
        { u with image := u.image.set i ⟨intAt req 2, .good, 0, (u.image.get i).force⟩ }) (fun j => decide (j = i))).close) ∧
    (∀ i : SigIx, i.val = wordAt req 0 → u.tables.ownedBy .panel i = false →
      exec (.writeSignal tag req) s = .next (u.replying tag 0x08 0x04 [] u.fp.link.rate)) ∧
    (512 ≤ wordAt req 0 → exec (.writeSignal tag req) s = .next (u.replying tag 0x08 0x03 [] u.fp.link.rate))

/-- R16: FORCE sets the force part of a record in a forceable area and nothing else of the record; its checks are STATE, RANGE, AREA and
FULL in that order. R17: RELEASE removes one force part, RELEASE_ALL every one, and neither touches value, quality or age; a release with
no force part to remove replies DONE and changes nothing. A FORCE checks its record for the watch list whether or not its bytes changed,
and a release only the records that carried a force part (log 12, the model's reading). A reception that was not announced begins with the
command's frame (log 7, the model's choice). -/
def Obligations.ForcesAreSetAndReleased : Prop :=
  (∀ (tag : BitVec 6) (req : List Byte) (s : State), s.awake → s.festoonReceives = true → requestFits req = true → 4 ≤ req.length →
    let u := s.festoonGood
    let refused := fun code : Nat => exec (.force tag req) s = .next (u.replying tag 0x09 code [] u.fp.link.rate)
    (u.operating = .config → refused 0x02) ∧
    (u.operating = .run → 512 ≤ wordAt req 0 → refused 0x03) ∧
    (∀ i : SigIx, u.operating = .run → i.val = wordAt req 0 →
      (u.tables.forceable i = false → refused 0x04) ∧
      (u.tables.forceable i = true → (u.image.get i).force = none → 32 ≤ u.forceCount → refused 0x05) ∧
      (u.tables.forceable i = true → ((u.image.get i).force ≠ none ∨ u.forceCount < 32) →
        exec (.force tag req) s = .next (Work.mk (State.replying tag 0x09 0x00 [] u.fp.link.rate
          { u with image := u.image.set i { u.image.get i with force := some (intAt req 2) } }) (fun j => decide (j = i))).close))) ∧
  (∀ (tag : BitVec 6) (req : List Byte) (s : State), s.awake → s.festoonReceives = true → requestFits req = true →
    let u := s.festoonGood
    (∀ i : SigIx, 2 ≤ req.length → i.val = wordAt req 0 → (u.image.get i).force ≠ none →
      exec (.release tag req) s = .next (Work.mk (State.replying tag 0x0A 0x00 [] u.fp.link.rate
        { u with image := u.image.set i { u.image.get i with force := none } }) (fun j => decide (j = i))).close) ∧
    (∀ i : SigIx, 2 ≤ req.length → i.val = wordAt req 0 → (u.image.get i).force = none →
      exec (.release tag req) s = .next (u.replying tag 0x0A 0x00 [] u.fp.link.rate)) ∧
    (2 ≤ req.length → 512 ≤ wordAt req 0 → exec (.release tag req) s = .next (u.replying tag 0x0A 0x03 [] u.fp.link.rate)) ∧
    (∃ image, (∀ i, image.get i = { u.image.get i with force := none }) ∧
      exec (.releaseAll tag req) s = .next (Work.mk (State.replying tag 0x0B 0x00 [] u.fp.link.rate { u with image := image })
        (fun j => (u.image.get j).force.isSome)).close))

/-- R170: SEND_ONCE arms an enabled ONCE slot of an active set; its checks are STATE in CONFIG, RANGE for the codes, STATE for a set that
is not active, RANGE for a slot that is no enabled ONCE slot. A reception that was not announced begins with the command's frame (log 7,
the model's choice). -/
def Obligations.SendOnceArmsOnceSlots : Prop :=
  ∀ (tag : BitVec 6) (req : List Byte) (s : State), s.awake → s.festoonReceives = true → requestFits req = true → 2 ≤ req.length →
    let u := s.festoonGood
    let refused := fun code : Nat => exec (.sendOnce tag req) s = .next (u.replying tag 0x0C code [] u.fp.link.rate)
    (u.operating = .config → refused 0x02) ∧
    (u.operating = .run → 2 ≤ byteAt req 0 ∨ 16 ≤ byteAt req 1 → refused 0x03) ∧
    (∀ (l : MasterLine) (k : SlotIx), u.operating = .run → byteAt req 0 = (match l with | .sp => 0 | .cp => 1) → k.val = byteAt req 1 →
      (u.activeEntry l k = none → refused 0x02) ∧
      (∀ e, u.activeEntry l k = some e →
        ((u.slotRec e).enabled = false ∨ (u.slotRec e).direction = .inbound ∨ (u.slotRec e).once = false → refused 0x03) ∧
        ((u.slotRec e).enabled = true → (u.slotRec e).direction = .outbound → (u.slotRec e).once = true →
          exec (.sendOnce tag req) s = .next (State.replying tag 0x0C 0x00 [] u.fp.link.rate
            { u with masterRt := u.masterRt.set e { u.masterRt.get e with armed := true } }))))

/-- R173, R75: READ_EVENTS removes the oldest records, at most six and at most the maximum, returns each in its seven bytes, oldest first,
and clears OVF when the queue is then empty. The seven bytes: kind, two subject bytes, value and timestamp, by R75's table. A reception
that was not announced begins with the command's frame (log 7, the model's choice). -/
def Obligations.ReadEventsDrainsOldestFirst : Prop :=
  (∀ (tag : BitVec 6) (req : List Byte) (s : State), s.awake → s.festoonReceives = true → requestFits req = true → 1 ≤ req.length →
    let u := s.festoonGood
    let n := min (min (byteAt req 0) 6) u.events.length
    ∃ records : List (List Byte), records.length = n ∧ (∀ r ∈ records, r.length = 7) ∧
      (∀ j r, u.events[j]? = some r → j < n → records[j]? = some (eventBytes r)) ∧
      exec (.readEvents tag req) s = .next (State.replying tag 0x0D (if 6 < byteAt req 0 then 0x01 else 0x00)
        (BitVec.ofNat 8 n :: records.flatten) u.fp.link.rate
        { u with events := u.events.drop n, ovf := if u.events.length ≤ n then false else u.ovf })) ∧
  (∀ (e : Event) (timestamp : BitVec 16),
    let line := fun l : Line => match l with | .sp => 0 | .cp => 1 | .fp => 2
    let feed := fun d : Feed => match d with | .spreader => 0 | .cab => 1
    let bytes := fun (kind subject1 subject2 : Nat) (value : Int) => eventBytes ⟨e, timestamp⟩ =
      [BitVec.ofNat 8 kind, BitVec.ofNat 8 subject1, BitVec.ofNat 8 subject2, BitVec.ofInt 8 value, BitVec.ofInt 8 (value / 256),
        BitVec.ofNat 8 timestamp.toNat, BitVec.ofNat 8 (timestamp.toNat / 256)]
    match e with
    | .gateOpened g => bytes 0x01 g.val 0 0
    | .gateClosed g locked => bytes 0x02 g.val 0 (if locked then 1 else 0)
    | .slotLost l k => bytes 0x03 (line l) k.val 0
    | .slotRegained l k => bytes 0x04 (line l) k.val 0
    | .lineDegraded l score => bytes 0x05 (line l) 0 score
    | .lineRecovered l score => bytes 0x06 (line l) 0 score
    | .lineDetached l => bytes 0x07 (line l) 0 0
    | .spreaderAttached p code => bytes 0x08 p.val 0 code.toNat
    | .spreaderUnknown code => bytes 0x09 0 0 code.toNat
    | .spreaderDetached p cause => bytes 0x0A p.val cause 0
    | .feedLow d reading => bytes 0x0B (feed d) 0 reading.toNat
    | .feedGood d reading => bytes 0x0C (feed d) 0 reading.toNat
    | .inputOpen c reading => bytes 0x0D c.val 0 reading.toNat
    | .inputRestored c reading => bytes 0x0E c.val 0 reading.toNat
    | .cycleOverrun l => bytes 0x0F (match l with | .sp => 0 | .cp => 1) 0 0
    | .watch n quality value => bytes 0x10 n.val (match quality with
        | .stored .good => 0 | .stored .clamped => 1 | .stored (.suspect .short) => 2 | .stored (.suspect .opened) => 3
        | .stored (.suspect .feed) => 4 | .stored .stale => 5 | .stored .absent => 6 | .forced => 7) value)

/-! ### Receptions -/

/-- R69, R77, R78, R90, R108: STRAY_FRAME is scored as a good frame and has no other effect; where the window ended during it, the turn
ends in a miss, or the search window closes. That the window ended is an operand of the command (log 8), which records a miss counts as
touched (log 12) and that LINE_RECOVERED enters before SLOT_LOST (log 13) are the model's readings. A festoon reception that was not
announced begins with the command's frame (log 7, its choice). -/
def Obligations.StrayFrameIsScoredOnly : Prop :=
  ∀ (f : Frame) (s : State), s.awake → frameWithinLimit f = true →
    (s.festoonReceives = true → s.beginReception.isStray .fp f = true → ∀ ended, ∃ t,
      exec (.strayFrame .fp f ended) s = .next t ∧ GoodScored .fp s.beginReception t) ∧
    (∀ l : MasterLine, s.masterReceives l = true → s.isStray (masterLine l) f = true → ∃ t, GoodScored (masterLine l) s t ∧
      exec (.strayFrame (masterLine l) f false) s = .next t ∧
      (∀ k e, (s.port l).turn = .window k → s.activeEntry l k = some e → ∃ t',
        exec (.strayFrame (masterLine l) f true) s = .next t' ∧ MissTaken l k e t t') ∧
      ((∀ k, (s.port l).turn ≠ .window k) → exec (.strayFrame (masterLine l) f true) s =
        .next (if l = .sp ∧ s.hail = .window then { t with hail := .waiting } else t)))

/-- R77, R78, R90, R108: FRAME_ERROR without overflow adds 8 to the score; where the window ended during it, the turn ends in a miss, or
the search window closes. That the window ended is an operand of the command (log 8), which records a miss counts as touched (log 12) and
that LINE_DEGRADED enters before SLOT_LOST (log 13) are the model's readings. A festoon reception that was not announced begins with the
command's characters (log 7, its choice). -/
def Obligations.FrameErrorRaisesScore : Prop :=
  ∀ (cs : List LineChar) (s : State), s.awake → isFrameError cs = true →
    (s.festoonReceives = true → s.beginReception.fp.link.score + 8 < 248 → ∀ ended, ∃ t,
      exec (.frameError .fp cs ended) s = .next t ∧ ErrorScored .fp s.beginReception t) ∧
    (∀ l : MasterLine, s.masterReceives l = true → (s.port l).link.score + 8 < 248 → ∃ t, ErrorScored (masterLine l) s t ∧
      exec (.frameError (masterLine l) cs false) s = .next t ∧
      (∀ k e, (s.port l).turn = .window k → s.activeEntry l k = some e → ∃ t',
        exec (.frameError (masterLine l) cs true) s = .next t' ∧ MissTaken l k e t t') ∧
      ((∀ k, (s.port l).turn ≠ .window k) → exec (.frameError (masterLine l) cs true) s =
        .next (if l = .sp ∧ s.hail = .window then { t with hail := .waiting } else t)))

/-- R77 to R79, R81, R114: a FRAME_ERROR that overflows the score sets it to 0 and takes the port into DETACHED for 250 ms: the turn is
abandoned, the queue emptied, every enabled IN slot LOST and STALE, and an attachment dropped with cause 2 and its area cleared. The port
then needs a new rest of its line (log 27, the model's reading). The records that change are the ones touched (log 12, its reading). Where the
window ended during the reception, the detachment is taken before the miss, which R100 leaves open (log 29, the model's choice). A festoon
reception that was not announced begins with the command's characters (log 7, its choice). -/
def Obligations.OverflowDetachesThePort : Prop :=
  ∀ (cs : List LineChar) (ended : Bool) (s : State), s.awake → isFrameError cs = true →
    (s.festoonReceives = true → 248 ≤ s.beginReception.fp.link.score + 8 →
      let b := s.beginReception
      exec (.frameError .fp cs ended) s = .next (({ b with fp := { b.fp with
        state := .detached, due := none, detachTimer := some 250
        link := { b.fp.link with score := 0, health := .active, phase := .ignoring } } }).raise (.lineDetached .fp))) ∧
    (∀ l : MasterLine, s.masterReceives l = true → 248 ≤ (s.port l).link.score + 8 →
      let falls := fun ke : SlotIx × MasterIx =>
        (s.slotRec ke.2).enabled && (s.slotRec ke.2).direction == .inbound && (s.masterRt.get ke.2).status != .lost
      let fallen := (s.activeSet l).filter falls
      let dropped := if l = .sp then s.attached else none
      let raised := s.raiseAll (.lineDetached (masterLine l) :: fallen.map (fun ke => .slotLost (masterLine l) ke.1) ++
        dropped.toList.map (fun p => .spreaderDetached p 2))
      ∃ t, exec (.frameError (masterLine l) cs ended) s = .next t ∧
        t.port l = { s.port l with
          state := .detached, turn := .none, cycle := none, cycleTimer := none, overdue := false, queue := [], detachTimer := some 250
          link := { (s.port l).link with score := 0, health := .active, phase := .ignoring } } ∧
        (∀ e, t.masterRt.get e =
          if dropped.any (fun p => e.val / 16 == p.val) then ⟨.disabled, 0, false, 0⟩
          else if fallen.any (fun ke => ke.2 == e) then
            { s.masterRt.get e with status := .lost, misses := (s.slotRec e).missLimit }
          else s.masterRt.get e) ∧
        (∀ i, t.image.get i =
          if dropped.isSome && s.tables.ownedBy .spreader i then (s.image.get i).emptied
          else if (s.image.get i).quality.goesStale &&
              fallen.any (fun ke => (writtenSignals (s.tables.slotRun (s.slotRec ke.2))).contains i) then
            { s.image.get i with quality := .stale }
          else s.image.get i) ∧
        State.Ends { s.setPort l (t.port l) with
          attached := if l = .sp then none else s.attached, searchTimer := if l = .sp then none else s.searchTimer
          hail := if l = .sp then .off else s.hail, masterRt := t.masterRt, image := t.image, events := raised.events, ovf := raised.ovf }
          (fun i => t.image.get i ≠ s.image.get i) t)

/-- R27 to R29, R38, R10: applying a payload to a run whose IN placements name distinct signals. A field within the payload writes the
number it carries, through its conversion or clamped to the signal range, GOOD or CLAMPED with age 0; a field that ends beyond it marks
its signal SUSPECT(SHORT); force parts and every other record are kept; the records named are the ones touched. Which records count as
touched for the watch list is the model's reading (log 12). -/
def Obligations.PlacementsApplyTheirFields : Prop :=
  ∀ (s : State) (run : List Placement) (bytes : List Byte),
    ((run.filter fun p => p.direction == .inbound).map fun p => p.addr.base).Nodup →
    let w := s.work.applyRun run bytes
    w.st = { s with image := w.st.image } ∧
    (∀ p ∈ run, p.direction = .inbound →
      let raw := fieldNumber p.signed p.width (extractField (leNat bytes) p.offset p.width)
      let old := s.image.get p.addr.base
      w.touched p.addr.base = true ∧
      (8 * bytes.length < p.offset + p.width → w.st.image.get p.addr.base = { old with quality := .suspect .short }) ∧
      (p.offset + p.width ≤ 8 * bytes.length → w.st.image.get p.addr.base = { old with
        age := 0
        value := match p.conversion with
          | some c => ((s.tables.conversions.get c).apply raw).1
          | none => if raw < -32768 then -32768 else if 32767 < raw then 32767 else raw
        quality := if (match p.conversion with
            | some c => ((s.tables.conversions.get c).apply raw).2
            | none => decide (raw < -32768 ∨ 32767 < raw)) then .clamped else .good })) ∧
    (∀ i, (∀ p ∈ run, p.direction = .inbound → p.addr.base ≠ i) → w.st.image.get i = s.image.get i ∧ w.touched i = false)

/-- R91, R77: MASTER_RESPONSE_ACCEPTED. The frame is scored; the slot's placements are applied to the payload cut at the declared length;
the slot is LIVE with count 0 and the present timestamp; SLOT_REGAINED is raised if it was LOST; then its chain is requested. The event of
the score enters first (log 13) and the records written count as touched (log 12), the model's readings. -/
def Obligations.ResponseIsAccepted : Prop :=
  ∀ (l : MasterLine) (f : Frame) (k : SlotIx) (e : MasterIx) (s : State), s.awake → frameWithinLimit f = true →
    s.masterReceives l = true → (s.port l).turn = .window k → s.activeEntry l k = some e → f.kind = .data →
    f.address = (s.slotRec e).node → f.tag = (s.slotRec e).tag →
    ∃ m : State, GoodScored (masterLine l) s m ∧
      let w := m.work.applyRun (s.tables.slotRun (s.slotRec e)) (f.payload.take (s.slotRec e).length)
      let x := { m.setPort l { m.port l with turn := .inGap k } with
        image := w.st.image
        masterRt := s.masterRt.set e { s.masterRt.get e with status := .live, misses := 0, arrival := s.timestamp } }
      let y := if (s.masterRt.get e).status = .lost then x.raise (.slotRegained (masterLine l) k) else x
      exec (.masterResponseAccepted l f) s = .next (Work.mk (y.requestIf (s.slotRec e).chain) w.touched).close

/-- R96, R97, R139: a chain request. A master port that is CYCLING takes it for an OUT slot of its set that is not DISABLED, not an
unarmed ONCE slot and not already queued, as its newest entry; L takes every one; any other leaves no record. The count of L requests is
the model's reading (log 19). -/
def Obligations.ChainRequestsJoinTheQueue : Prop :=
  ∀ (s : State) (l : MasterLine) (k : SlotIx),
    let target := match l with | .sp => ChainTarget.sp k | .cp => ChainTarget.cp k
    (∀ e, (s.port l).state = .cycling → s.activeEntry l k = some e → (s.masterRt.get e).status ≠ .disabled →
      (s.slotRec e).direction = .outbound → ((s.slotRec e).once = true → (s.masterRt.get e).armed = true) →
      s.requestChain target = if k ∈ (s.port l).queue then s
        else s.setPort l { s.port l with queue := (s.port l).queue ++ [k] }) ∧
    ((s.port l).state ≠ .cycling ∨ s.activeEntry l k = none ∨ (∃ e, s.activeEntry l k = some e ∧
      ((s.masterRt.get e).status = .disabled ∨ ((s.slotRec e).once = true ∧ (s.masterRt.get e).armed = false))) →
      s.requestChain target = s) ∧
    s.requestChain .l = { s with tio := { s.tio with l2Requests := s.tio.l2Requests + 1 } }

/-- R109 to R111, R71, R77: HAIL_REPLY_TAKEN. A type code of an enabled profile attaches the lowest such profile: serial, slots, event,
CYCLING and a first cycle; any other code raises SPREADER_UNKNOWN unless the register holds it, and the search goes on. The event of the
score enters first (log 13), and the first turn is chosen at once and then due (log 10), the model's readings. -/
def Obligations.HailReplyAttachesOrIsUnknown : Prop :=
  ∀ (f : Frame) (code : BitVec 16) (serial : BitVec 32) (s : State), s.awake → s.masterReceives .sp = true → s.sp.state = .search →
    s.hail = .window → f.kind = .hailReply → f.payload = leBytes 2 code.toNat ++ leBytes 4 serial.toNat →
    ∃ m : State, GoodScored .sp s m ∧
      (∀ p, (s.tables.profiles.get p).enabled = true → (s.tables.profiles.get p).typeCode = code →
        (∀ q, q < p → ¬((s.tables.profiles.get q).enabled = true ∧ (s.tables.profiles.get q).typeCode = code)) →
        ∃ t, exec (.hailReplyTaken f) s = .next t ∧ t.attached = some p ∧
          (∀ q, t.serials.get q = if q = p then serial else s.serials.get q) ∧
          (∀ e, t.masterRt.get e =
            if e.val / 16 = p.val ∧ (s.slotRec e).enabled = true then
              { s.masterRt.get e with
                status := if (s.slotRec e).direction = .inbound then .awaiting else .live, misses := 0, armed := false }
            else s.masterRt.get e) ∧
          t.events = (m.raise (.spreaderAttached p code)).events ∧ t.ovf = (m.raise (.spreaderAttached p code)).ovf ∧
          t.sp = { m.sp with
            state := .cycling, cycleTimer := some (s.lineEntry .sp).cyclePeriod, overdue := false, overrun := false, queue := []
            detachTimer := none, cycle := t.sp.cycle, turn := t.sp.turn } ∧
          (∀ k kind, t.nextVisit .sp 0 = some (k, kind) → t.sp.turn = .due kind k ∧ t.sp.cycle = some (k.val + 1)) ∧
          (t.nextVisit .sp 0 = none → t.sp.turn = .none ∧ t.sp.cycle = none) ∧
          t = { m with
            attached := some p, serials := t.serials, masterRt := t.masterRt, events := t.events, ovf := t.ovf, searchTimer := none
            hail := .off, sp := t.sp }) ∧
      ((∀ p, ¬((s.tables.profiles.get p).enabled = true ∧ (s.tables.profiles.get p).typeCode = code)) →
        exec (.hailReplyTaken f) s = .next
          { (if s.unknownCode = some code then m else m.raise (.spreaderUnknown code)) with
            unknownCode := some code, hail := .waiting })

/-- R122, R123, R77: FESTOON_DATA_ACCEPTED in RUN, addressed to the hub or to 31. The frame is scored and begins its reception if it was
not announced (log 7); the placements are applied; the slot is LIVE with the present timestamp and its stale timer restarted;
SLOT_REGAINED if it was LOST; then its chain. The event of the score enters first (log 13) and the records written count as touched (log
12), the model's readings. -/
def Obligations.FestoonDataIsAccepted : Prop :=
  ∀ (f : Frame) (k : SlotIx) (s : State), s.awake → frameWithinLimit f = true → s.festoonReceives = true →
    let b := s.beginReception
    let u := s.festoonGood
    let slot := b.tables.festoonSlots.get k
    b.operating = .run → f.kind = .data → (f.address = b.fp.address ∨ f.address = 31) → slot.enabled = true →
    slot.direction = .inbound → slot.tag = f.tag →
    (∀ j, j < k → ¬((b.tables.festoonSlots.get j).enabled = true ∧ (b.tables.festoonSlots.get j).direction = .inbound ∧
      (b.tables.festoonSlots.get j).tag = f.tag)) →
    GoodScored .fp b u ∧
      let w := u.work.applyRun (b.tables.festoonRun slot) (f.payload.take slot.length)
      let x := { u with image := w.st.image, fp := { u.fp with slots := u.fp.slots.set k ⟨.live, some slot.staleLimit, u.timestamp⟩ } }
      let y := if (u.fp.slots.get k).status = .lost then x.raise (.slotRegained .fp k) else x
      exec (.festoonDataAccepted f) s = .next (Work.mk (y.requestIf slot.chain) w.touched).close

/-- R122, R125 to R128, R67: FESTOON_POLL makes the slot's answer due; FESTOON_DATA_ANSWER builds and sends it; MGMT_REPLY_START sends the
due reply at the rate fixed for it. Every frame carries the hub's address, and ATTN and OVF as the event queue stands. A reception that
was not announced begins with the POLL (log 7, the model's choice). -/
def Obligations.FestoonAnswersAreDueThenSent : Prop :=
  ∀ s : State, s.awake →
    (∀ (f : Frame) (k : SlotIx), frameWithinLimit f = true → s.festoonReceives = true →
      let b := s.beginReception
      b.operating = .run → f.kind = .poll → f.address = b.fp.address → (b.tables.festoonSlots.get k).enabled = true →
      (b.tables.festoonSlots.get k).direction = .outbound → (b.tables.festoonSlots.get k).tag = f.tag →
      (∀ j, j < k → ¬((b.tables.festoonSlots.get j).enabled = true ∧ (b.tables.festoonSlots.get j).direction = .outbound ∧
        (b.tables.festoonSlots.get j).tag = f.tag)) →
      ∃ u, GoodScored .fp b u ∧ exec (.festoonPoll f) s = .next { u with fp := { u.fp with due := some (.data k) } }) ∧
    (∀ k : SlotIx, s.fp.state = .listening → (s.fp.link.phase = .rested ∨ s.fp.link.phase = .ignoring) →
      s.fp.due = some (.data k) → s.operating = .run →
      exec .festoonDataAnswer s = .next { s with fp := { s.fp with
        due := none
        link := { s.fp.link with phase := (.sending
                  ⟨s.fp.address, .data, (s.tables.festoonSlots.get k).tag, decide (s.events ≠ []), s.ovf,
                    s.build (s.tables.festoonRun (s.tables.festoonSlots.get k)) (s.tables.festoonSlots.get k).length⟩ s.fp.link.rate) } } }) ∧
    (∀ tag payload rate, s.fp.state = .listening → (s.fp.link.phase = .rested ∨ s.fp.link.phase = .ignoring) →
      s.fp.due = some (.reply tag payload rate) →
      exec .mgmtReplyStart s = .next { s with fp := { s.fp with
        due := none
        link := { s.fp.link with phase := .sending ⟨s.fp.address, .mgmtReply, tag, decide (s.events ≠ []), s.ovf, payload⟩ rate } } })

/-! ### Cycles -/

/-- R87, R95, R98: CYCLE_TIMER_EXPIRY. With no cycle in progress a cycle begins and the timer restarts. Its first visit is made at once,
unless a chained turn is in flight or queued: the cycle then has visited no slot. A cycle without a turn ends at once. During a cycle the
expiry is an overrun: the timer waits for the next cycle, and CYCLE_OVERRUN is raised if the flag was clear. The next visit that is a turn
is the one of the lowest slot at or after the place whose visit the table of R87 makes a turn. That the turn is chosen at once and then
due is the model's choice (log 10), and when a cycle passes over slots without a turn is its reading (log 11). -/
def Obligations.CycleTimerStartsOrOverruns : Prop :=
  (∀ (l : MasterLine) (s : State), s.awake → (s.port l).state = .cycling → (s.port l).cycleTimer ≠ none →
    let period := some (s.lineEntry (masterLine l)).cyclePeriod
    ((s.port l).cycle = none → (s.port l).turn ≠ .none ∨ (s.port l).queue ≠ [] →
      exec (.cycleTimerExpiry l) s = .next (s.setPort l { s.port l with cycle := some 0, cycleTimer := period, overdue := false })) ∧
    ((s.port l).cycle = none → (s.port l).turn = .none → (s.port l).queue = [] →
      (∀ k kind, s.nextVisit l 0 = some (k, kind) → exec (.cycleTimerExpiry l) s = .next (s.setPort l
        { s.port l with cycle := some (k.val + 1), cycleTimer := period, overdue := false, turn := .due kind k })) ∧
      (s.nextVisit l 0 = none → exec (.cycleTimerExpiry l) s = .next (s.setPort l
        { s.port l with cycle := none, cycleTimer := period, overdue := false, overrun := false }))) ∧
    (∀ place, (s.port l).cycle = some place →
      let t := s.setPort l { s.port l with cycleTimer := none, overdue := true, overrun := true }
      exec (.cycleTimerExpiry l) s = .next (if (s.port l).overrun then t else t.raise (.cycleOverrun l)))) ∧
  (∀ (s : State) (l : MasterLine) (place : Nat),
    (∀ k kind, s.nextVisit l place = some (k, kind) ↔
      place ≤ k.val ∧ s.visit l k = some kind ∧ ∀ j, place ≤ j.val → j < k → s.visit l j = none) ∧
    (s.nextVisit l place = none ↔ ∀ k, place ≤ k.val → s.visit l k = none) ∧
    (∀ k kind, s.visit l k = some kind ↔ ∃ e, s.activeEntry l k = some e ∧ (s.masterRt.get e).status ≠ .disabled ∧
      ((kind = .regularIn ∧ (s.slotRec e).direction = .inbound) ∨
        (kind = .regularOut ∧ (s.slotRec e).direction = .outbound ∧
          ((s.slotRec e).once = true → (s.masterRt.get e).armed = true)))))

/-- R88, R94, R98: OUT_TURN_START builds the payload and sends DATA to the slot's node with ATTN and OVF at 0, and a regular turn also
serves a request queued for its slot; OUT_FRAME_END ends the frame and disarms a ONCE slot. R89: IN_TURN sends a POLL with the slot's node
address and tag; POLL_END opens the response window, and the end of the own frame counts as a rest of the line (R69). That a turn due at a
boundary begins as a command of its own is the model's choice (log 10). -/
def Obligations.TurnsSendTheirFrames : Prop :=
  (∀ (l : MasterLine) (k : SlotIx) (e : MasterIx) (s : State), s.awake → (s.port l).state = .cycling → s.activeEntry l k = some e →
    ((s.port l).turn = .due .regularOut k ∨ (s.port l).turn = .due .chainedOut k →
      exec (.outTurnStart l) s = .next (s.setPort l { s.port l with
        turn := .outFrame k
        queue := if (s.port l).turn = .due .regularOut k then (s.port l).queue.filter (fun j => decide (j ≠ k)) else (s.port l).queue
        link := { (s.port l).link with phase := (.sending
                  ⟨(s.slotRec e).node, .data, (s.slotRec e).tag, false, false,
                    s.build (s.tables.slotRun (s.slotRec e)) (s.slotRec e).length⟩ (s.port l).link.rate) } })) ∧
    ((s.port l).turn = .outFrame k →
      exec (.outFrameEnd l) s = .next { s.setPort l { s.port l with
          turn := .outGap k, link := { (s.port l).link with phase := .rested } } with
        masterRt := s.masterRt.set e
          { s.masterRt.get e with armed := if (s.slotRec e).once then false else (s.masterRt.get e).armed } })) ∧
  (∀ (l : MasterLine) (k : SlotIx) (e : MasterIx) (s : State), s.awake → (s.port l).state = .cycling → s.activeEntry l k = some e →
    ((s.port l).turn = .due .regularIn k →
      exec (.inTurn l) s = .next (s.setPort l { s.port l with
        turn := .poll k
        link := { (s.port l).link with phase := (.sending
                  ⟨(s.slotRec e).node, .poll, (s.slotRec e).tag, false, false, []⟩ (s.port l).link.rate) } })) ∧
    ((s.port l).turn = .poll k →
      exec (.pollEnd l) s = .next (s.setPort l { s.port l with
        turn := .window k, link := { (s.port l).link with phase := .rested } })))

/-- R87, R95, R98: TURN_BOUNDARY. The oldest queue entry that is not an unarmed ONCE slot takes a chained turn, which does not move the
cycle's place; with none, the cycle's next regular turn is taken. A cycle with no turn left ends, on time, or is followed at once by the
next, also at a boundary at which a chained turn is served, unless it has visited no slot. That the turn is chosen here and begins later
is the model's choice (log 10), and when a cycle passes over slots without a turn is its reading (log 11). -/
def Obligations.TurnBoundaryServesQueueThenCycle : Prop :=
  ∀ (l : MasterLine) (s : State), s.awake → (s.port l).atTurnEnd = true →
    let unarmed := fun k => ∃ e, s.activeEntry l k = some e ∧ (s.slotRec e).once = true ∧ (s.masterRt.get e).armed = false
    let period := some (s.lineEntry (masterLine l)).cyclePeriod
    (∀ skipped k rest, (s.port l).queue = skipped ++ k :: rest → (∀ j ∈ skipped, unarmed j) → ¬unarmed k →
      let served := { s.port l with turn := .due .chainedOut k, queue := rest }
      let answers := fun p => exec (.turnBoundary l) s = .next (s.setPort l p)
      ((s.port l).cycle = none → answers served) ∧
      ((s.port l).cycle = some 0 → answers served) ∧
      (∀ place, (s.port l).cycle = some place → s.nextVisit l place ≠ none → answers served) ∧
      (∀ place, (s.port l).cycle = some place → place ≠ 0 → s.nextVisit l place = none →
        ((s.port l).overdue = false → answers { served with cycle := none, overrun := false }) ∧
        ((s.port l).overdue = true → answers { served with cycle := some 0, cycleTimer := period, overdue := false }))) ∧
    ((∀ j ∈ (s.port l).queue, unarmed j) →
      ((s.port l).cycle = none →
        exec (.turnBoundary l) s = .next (s.setPort l { s.port l with turn := .none, queue := [] })) ∧
      (∀ place, (s.port l).cycle = some place →
        (∀ k kind, s.nextVisit l place = some (k, kind) →
          exec (.turnBoundary l) s = .next (s.setPort l
            { s.port l with turn := .due kind k, queue := [], cycle := some (k.val + 1) })) ∧
        (s.nextVisit l place = none → (s.port l).overdue = false →
          exec (.turnBoundary l) s = .next (s.setPort l
            { s.port l with turn := .none, queue := [], cycle := none, overrun := false })) ∧
        (s.nextVisit l place = none → (s.port l).overdue = true →
          (∀ k kind, s.nextVisit l 0 = some (k, kind) →
            exec (.turnBoundary l) s = .next (s.setPort l { s.port l with
              turn := .due kind k, queue := [], cycle := some (k.val + 1), cycleTimer := period, overdue := false })) ∧
          (s.nextVisit l 0 = none →
            exec (.turnBoundary l) s = .next (s.setPort l { s.port l with
              turn := .none, queue := [], cycle := none, cycleTimer := period, overdue := false, overrun := false })))))

/-- R90, R92, R113: RESPONSE_WINDOW_EXPIRY ends the turn in a miss; and the table of R92. Only the records that go STALE, or that a
clearing changes, count as touched (log 12, the model's reading). -/
def Obligations.WindowExpiryIsAMiss : Prop :=
  (∀ (l : MasterLine) (k : SlotIx) (e : MasterIx) (s : State), s.awake → (s.port l).state = .cycling → (s.port l).turn = .window k →
    s.activeEntry l k = some e → ∃ t, exec (.responseWindowExpiry l) s = .next t ∧ MissTaken l k e s t) ∧
  (∀ (limit : Nat) (rt : MasterRt), 1 ≤ limit → missedSlot limit rt =
    match rt.status with
    | .live => if limit = 1 then { rt with status := .lost, misses := 1 } else { rt with status := .missing, misses := 1 }
    | .missing | .awaiting =>
      if rt.misses + 1 < limit then { rt with misses := rt.misses + 1 } else { rt with status := .lost, misses := limit }
    | .lost | .disabled => rt)

/-! ### Search, timers, rests -/

/-- R107, R108: FIRST_HAIL and SEARCH_TIMER_EXPIRY send a HAIL to 31 with tag 0 and start the search timer; HAIL_END opens the search window;
SEARCH_WINDOW_EXPIRY closes it with no other effect. -/
def Obligations.SearchHailsAndOpensWindows : Prop :=
  ∀ s : State, s.awake → s.sp.state = .search →
    let hailing := { s with
      hail := .sending, searchTimer := some (s.lineEntry .sp).searchInterval
      sp := { s.sp with link := { s.sp.link with phase := .sending ⟨31, .hail, 0, false, false, []⟩ s.sp.link.rate } } }
    (s.hail = .firstDue → exec .firstHail s = .next hailing) ∧
    (s.hail = .waiting → s.searchTimer ≠ none → exec .searchTimerExpiry s = .next hailing) ∧
    (s.hail = .sending → exec .hailEnd s =
      .next { s with hail := .window, sp := { s.sp with link := { s.sp.link with phase := .rested } } }) ∧
    (s.hail = .window → exec .searchWindowExpiry s = .next { s with hail := .waiting })

/-- R80, R81: DETACH_TIMER_EXPIRY. A master port whose enabled monitor is LOW or RECOVERING enters HELD; otherwise the Spreader Port
searches and the Cab Port resumes. The Festoon Port listens again with score 0. R124, R11: STALE_TIMER_EXPIRY makes the festoon slot LOST
with SLOT_LOST, and marks its GOOD, CLAMPED and SUSPECT signals STALE, their values, ages and force parts held; these are the ones touched
(log 12, the model's reading). The port then needs a new rest of its line (log 27), and the Cab Port's first turn is chosen at once and then
due (log 10), the model's readings. -/
def Obligations.DetachAndStaleTimersExpire : Prop :=
  (∀ s : State, s.awake →
    let low := fun d => (s.tables.feeds.get d).enabled = true ∧ ((s.feedRt.get d).state = .low ∨ (s.feedRt.get d).state = .recovering)
    (s.sp.state = .detached → s.sp.detachTimer ≠ none →
      (¬low 0 → exec (.detachTimerExpiry .sp) s = .next s.searching) ∧
      (low 0 → ∃ t, exec (.detachTimerExpiry .sp) s = .next t ∧ PortHeld .sp s t)) ∧
    (s.cp.state = .detached → s.cp.detachTimer ≠ none →
      (¬low 1 → ∃ t, exec (.detachTimerExpiry .cp) s = .next t ∧ CabResumed s t) ∧
      (low 1 → ∃ t, exec (.detachTimerExpiry .cp) s = .next t ∧ PortHeld .cp s t)) ∧
    (s.fp.state = .detached → s.fp.detachTimer ≠ none →
      exec (.detachTimerExpiry .fp) s = .next { s with fp := { s.fp with
        state := .listening, detachTimer := none, link := { s.fp.link with score := 0, health := .active, phase := .ignoring } } })) ∧
  (∀ (k : SlotIx) (s : State), s.awake → (s.fp.slots.get k).staleTimer ≠ none →
    let signals := writtenSignals (s.tables.festoonRun (s.tables.festoonSlots.get k))
    ∃ t, exec (.staleTimerExpiry k) s = .next t ∧
      (∀ i, i ∈ signals → (s.image.get i).quality ≠ .absent → t.image.get i = { s.image.get i with quality := .stale }) ∧
      (∀ i, i ∉ signals ∨ (s.image.get i).quality = .absent → t.image.get i = s.image.get i) ∧
      State.Ends { s with
        fp := { s.fp with slots := s.fp.slots.set k { s.fp.slots.get k with status := .lost, staleTimer := none } }
        image := t.image, events := (s.raise (.slotLost .fp k)).events, ovf := (s.raise (.slotLost .fp k)).ovf }
        (fun i => t.image.get i ≠ s.image.get i) t)

/-- R69: LINE_REST gives a port that judges its line a new footing; on the festoon line the end of an own frame counts as such a rest and
comes as this command too (log 6). R127, R162: FESTOON_RECEPTION_START. A reception that begins discards an answer due and not begun, and
a pending warm restart takes effect at that moment. That a port that begins to judge needs such a rest is the model's reading (log 27), and
that the Cab Port's first turn after the restart is chosen at once and then due is its choice (log 10). -/
def Obligations.RestsAndReceptionStarts : Prop :=
  (∀ s : State, s.awake →
    (∀ l : MasterLine, ((s.port l).state = .cycling ∨ (l = .sp ∧ s.sp.state = .search)) → (s.port l).link.phase = .ignoring →
      exec (.lineRest (masterLine l)) s =
        .next (s.setPort l { s.port l with link := { (s.port l).link with phase := .rested } })) ∧
    (s.fp.state = .listening →
      (s.fp.link.phase = .ignoring ∨ ((∃ f r, s.fp.link.phase = .sending f r) ∧ s.fp.restartPending = false)) →
      exec (.lineRest .fp) s = .next { s with fp := { s.fp with link := { s.fp.link with phase := .rested } } })) ∧
  (∀ s : State, s.awake → s.fp.state = .listening → s.fp.link.phase = .rested →
    let d := { s with fp := { s.fp with due := none } }
    (s.fp.restartPending = false →
      exec .festoonReceptionStart s = .next { d with fp := { d.fp with link := { d.fp.link with phase := .receiving } } }) ∧
    (s.fp.restartPending = true → ∃ m t : State,
      exec .festoonReceptionStart s = .next { t with fp := { t.fp with link := { t.fp.link with phase := .receiving } } } ∧
      ConfigEntry { d with
        events := [], ovf := false, timestamp := 0
        sp := { d.sp with link := { d.sp.link with score := 0, health := .active } }
        cp := { d.cp with link := { d.cp.link with score := 0, health := .active } }
        fp := { d.fp with link := { d.fp.link with score := 0, health := .active }, restartPending := false } } m ∧
      (s.validated = false → t = m) ∧ (s.validated = true → RunEntry m t)))

/-! ### Gates -/

/-- R14, R50, R51, R57 to R59: SWEEP. Every enabled gate takes its transition on the image and the saved states as the sweep finds them
and saves its new state; its output signal is written 1 or 0, GOOD, age 0; the events enter in ascending gate index, and chains are
requested for the gates that entered or left OPEN; the timer restarts. Disabled gates and other records keep. The output signals are the
records touched, changed or not (log 12, the model's reading). -/
def Obligations.SweepStepsEveryEnabledGate : Prop :=
  ∀ s : State, s.awake → s.operating = .run → s.sweepTimer ≠ none →
    ∃ t, exec .sweep s = .next t ∧
      (∀ g, (s.tables.gates.get g).enabled = true →
        let n := gateStep (s.tables.gates.get g) (s.rawResult g) (s.rearmed (s.tables.gates.get g)) (s.gateRt.get g).state
          (s.gateRt.get g).count
        t.gateRt.get g = ⟨n.1, n.2, n.1⟩) ∧
      (∀ g, (s.tables.gates.get g).enabled = false → t.gateRt.get g = s.gateRt.get g) ∧
      (∀ g, (s.tables.gates.get g).enabled = true →
        (∀ h, (s.tables.gates.get h).enabled = true → (s.tables.gates.get h).output = (s.tables.gates.get g).output → h = g) →
        t.image.get (s.tables.gates.get g).output = { s.image.get (s.tables.gates.get g).output with
          value := if (t.gateRt.get g).state = .opened then 1 else 0, quality := .good, age := 0 }) ∧
      (∀ i, (∀ g, (s.tables.gates.get g).enabled = true → (s.tables.gates.get g).output ≠ i) → t.image.get i = s.image.get i) ∧
      (∃ raised m, raised = (s.raiseAll ((indices 32).flatMap fun g =>
        if (t.gateRt.get g).state = .opened ∧ (s.gateRt.get g).state ≠ .opened then [.gateOpened g]
        else if (s.gateRt.get g).state = .opened ∧ (t.gateRt.get g).state ≠ .opened then
          [.gateClosed g (decide ((t.gateRt.get g).state = .locked))]
        else [])) ∧
        m = (indices 32).foldl (fun (m : State) g =>
          if ((t.gateRt.get g).state = .opened ↔ (s.gateRt.get g).state ≠ .opened) then m.requestIf (s.tables.gates.get g).chain else m) s ∧
        State.Ends { s with
          gateRt := t.gateRt, image := t.image, events := raised.events, ovf := raised.ovf
          sp := m.sp, cp := m.cp, tio := m.tio, sweepTimer := some s.tables.sweepPeriod }
          (fun i => ∃ g, (s.tables.gates.get g).enabled = true ∧ (s.tables.gates.get g).output = i) t)

/-- R43, R46 to R49: a value test is false on a view that is not acceptable and else inverted by negate; FRESH, GATE and ALWAYS are
inverted whole; a gate's raw result is the AND of the terms it uses. R54 to R56, R58: how a gate in OPEN and a gate in LOCKED step, and
the events; the re-arm view must be acceptable and not 0. -/
def Obligations.TermsDriveAndGatesFall : Prop :=
  (∀ (s : State) (forced : Bool) (t : Term),
    let v := s.read t.addr
    let acceptable := v.quality = .stored .good ∨ v.quality = .stored .clamped ∨ (v.quality = .forced ∧ forced = true)
    ((t.test = .eq ∨ t.test = .ge ∨ t.test = .le ∨ t.test = .any ∨ t.test = .all) →
      (¬acceptable → s.termResult forced t = false) ∧ (acceptable → s.termResult forced t = (compareTest t.test v.value t.k != t.negate))) ∧
    (t.test = .fresh → (s.termResult forced t = true ↔ ((acceptable ∧ v.age ≤ t.k.toNat) ↔ t.negate = false))) ∧
    (t.test = .gate → (s.termResult forced t = true ↔
      ((∃ h : t.k.toNat < 32, (s.gateRt.get ⟨t.k.toNat, h⟩).saved = .opened) ↔ t.negate = false))) ∧
    (t.test = .always → s.termResult forced t = !t.negate) ∧
    (∀ g : GateIx, (s.tables.gates.get g).termCount ≤ 8 →
      (s.rawResult g = true ↔ ∀ j : Fin 256, g.val * 8 ≤ j.val → j.val < g.val * 8 + (s.tables.gates.get g).termCount →
        s.termResult (s.tables.gates.get g).acceptForced (s.tables.terms.get j) = true))) ∧
  (∀ (s : State) (g : GateIx) (c : Gate) (raw rearm : Bool) (count : Nat),
    gateStep c true rearm .opened count = (.opened, c.k) ∧
    gateStep c false rearm .opened count = (if c.latching then .locked else .closed, 0) ∧
    gateStep c raw rearm .locked count = (if rearm then .closed else .locked, 0) ∧
    gateEvents g .opened .closed = [.gateClosed g false] ∧ gateEvents g .opened .locked = [.gateClosed g true] ∧
    gateEvents g .opened .opened = [] ∧ gateEvents g .locked .closed = [] ∧ gateEvents g .locked .locked = [] ∧
    (s.rearmed c = true ↔ ∃ a, c.rearm = some a ∧ (s.read a).value ≠ 0 ∧
      ((s.read a).quality = .stored .good ∨ (s.read a).quality = .stored .clamped ∨
        ((s.read a).quality = .forced ∧ c.acceptForced = true))))

/-- R44, R45: EQ, GE and LE compare the view value with K as a two's-complement number; ANY and ALL take it as its 16-bit pattern. -/
def Obligations.ValueTestsCompareWithK : Prop :=
  (∀ (s : State) (forced negate : Bool) (a : SigAddr) (k : BitVec 16),
    let v := s.read a
    (v.quality = .stored .good ∨ v.quality = .stored .clamped ∨ (v.quality = .forced ∧ forced = true)) →
    (s.termResult forced ⟨a, .eq, negate, k⟩ = true ↔ (v.value = k.toInt ↔ negate = false)) ∧
    (s.termResult forced ⟨a, .ge, negate, k⟩ = true ↔ (k.toInt ≤ v.value ↔ negate = false)) ∧
    (s.termResult forced ⟨a, .le, negate, k⟩ = true ↔ (v.value ≤ k.toInt ↔ negate = false)) ∧
    (k = 0xFFFF → k.toInt = -1) ∧ (k = 0x8000 → k.toInt = -32768) ∧
    (signalRange v.value → s.termResult forced ⟨a, .ge, false, 0x8000⟩ = true ∧ s.termResult forced ⟨a, .le, false, 0x7FFF⟩ = true) ∧
    (∀ i, s.resolve a = some i → v.value = match (s.image.get i).force with
      | some w => w
      | none => (s.image.get i).value)) ∧
  (∀ (s : State) (forced negate : Bool) (a : SigAddr) (k : BitVec 16),
    let v := s.read a
    let bit := fun i : Nat => (BitVec.ofInt 16 v.value).getLsbD i
    (v.quality = .stored .good ∨ v.quality = .stored .clamped ∨ (v.quality = .forced ∧ forced = true)) →
    (s.termResult forced ⟨a, .any, negate, k⟩ = true ↔
      ((∃ i, i < 16 ∧ k.getLsbD i = true ∧ bit i = true) ↔ negate = false)) ∧
    (s.termResult forced ⟨a, .all, negate, k⟩ = true ↔
      ((∀ i, i < 16 → k.getLsbD i = true → bit i = true) ↔ negate = false)) ∧
    (s.termResult forced ⟨a, .any, false, 0⟩ = false ∧ s.termResult forced ⟨a, .all, false, 0⟩ = true) ∧
    (s.termResult forced ⟨a, .all, false, 0x000F⟩ = true ↔ ∀ i, i < 4 → bit i = true) ∧
    (s.termResult forced ⟨a, .any, false, 0x000F⟩ = true ↔ ∃ i, i < 4 ∧ bit i = true) ∧
    (signalRange v.value → v.value < 0 → s.termResult forced ⟨a, .any, false, 0x8000⟩ = true))

/-- R52, R53: how a gate in CLOSED and a gate in RISING step, whatever its latching flag and its re-arm signal, and the events of the
step. -/
def Obligations.GatesRiseOnSuccessiveSweeps : Prop :=
  ∀ (g : GateIx) (c : Gate) (rearm : Bool), 1 ≤ c.k →
    (∀ count, gateStep c true rearm .closed count = (if c.k = 1 then .opened else .rising, 1) ∧
      gateStep c false rearm .closed count = (.closed, 0)) ∧
    (∀ count, 1 ≤ count → count < c.k →
      gateStep c true rearm .rising count = (if count + 1 = c.k then .opened else .rising, count + 1) ∧
      gateStep c false rearm .rising count = (.closed, 0)) ∧
    gateEvents g .closed .opened = [.gateOpened g] ∧ gateEvents g .rising .opened = [.gateOpened g] ∧
    gateEvents g .closed .rising = [] ∧ gateEvents g .rising .rising = [] ∧ gateEvents g .rising .closed = [] ∧
    gateEvents g .closed .closed = []

/-! ### Trolley terminals and feeds -/

/-- R131, R138, R139: SCAN_TIMER_EXPIRY begins a scan and restarts the timer; L2_CHAIN_BUILD builds L2 at once and drives relay i from
payload bit i. The count of L requests is the model's reading (log 19). R133, R134: how a channel steps on a reading, with its outcome and
events, and how a digital input counts a sample. -/
def Obligations.ScansBeginAndTerminalsStep : Prop :=
  (∀ s : State, s.awake → s.operating = .run →
    (s.tio.scanTimer ≠ none → s.tio.scanInFlight = false →
      exec .scanTimerExpiry s = .next { s with tio := { s.tio with scanTimer := some s.tables.scanPeriod, scanInFlight := true } }) ∧
    (0 < s.tio.l2Requests → ∃ relays : BitVec 8,
      (∀ i, i < 8 → relays.getLsbD i = (s.buildNat (s.tables.lRun s.tables.l2)).testBit i) ∧
      exec .l2ChainBuild s = .next { s with tio := { s.tio with l2Requests := s.tio.l2Requests - 1, relays := relays } })) ∧
  (∀ (c : Channel) (rt : ChannelRt) (r : BitVec 12) (i : Fin 16),
    let broken := c.openCheck = true ∧ 4064 ≤ r.toNat
    (¬broken → steppedChannel c rt r = ⟨.normal, 0, r⟩ ∧ readingOutcome c rt r = .delivered ∧
      channelEvents i rt (steppedChannel c rt r) = if rt.state = .opened then [.inputRestored i r] else []) ∧
    (broken → rt.state = .normal → rt.openCount < 2 → steppedChannel c rt r = ⟨.normal, rt.openCount + 1, r⟩ ∧
      readingOutcome c rt r = .withheld ∧ channelEvents i rt (steppedChannel c rt r) = []) ∧
    (broken → rt.state = .normal → rt.openCount = 2 → steppedChannel c rt r = ⟨.opened, 3, r⟩ ∧
      readingOutcome c rt r = .opened ∧ channelEvents i rt (steppedChannel c rt r) = [.inputOpen i r]) ∧
    (broken → rt.state = .opened → steppedChannel c rt r = ⟨.opened, 3, r⟩ ∧ readingOutcome c rt r = .opened ∧
      channelEvents i rt (steppedChannel c rt r) = [])) ∧
  (∀ (q : Nat) (sample : Bool) (rt : InputRt),
    countedInput true q sample rt = ⟨sample, 0⟩ ∧
    (sample = rt.level → countedInput false q sample rt = ⟨rt.level, 0⟩) ∧
    (sample ≠ rt.level → countedInput false q sample rt =
      if rt.changes + 1 < q then ⟨rt.level, rt.changes + 1⟩ else ⟨sample, 0⟩))

/-- R132 to R138, R140: SCAN_COMPLETION, for L0 and L1 runs whose IN placements name distinct signals, L1 fields within 16 bits and L0
fields within 256: the channels step and raise their events, the L0 and L1 placements are applied, the inputs count, L2 is built from the
image as it then stands, and the readings of channels 14 and 15 are handed to the monitors. The records written or marked are the ones
touched, changed or not (log 12, the model's reading). Samples and readings are operands of the command (log 9, its choice), and what is
handed over waits in first-in, first-out lists (log 18, its reading). -/
def Obligations.ScanCompletionDelivers : Prop :=
  ∀ (samples : BitVec 16) (readings : Tab (BitVec 12) 16) (s : State), s.awake → s.operating = .run → s.tio.scanInFlight = true →
    let ins := fun slot => (s.tables.lRun slot).filter fun p => p.direction == .inbound
    ((ins s.tables.l0 ++ ins s.tables.l1).map fun p => p.addr.base).Nodup →
    (∀ p ∈ ins s.tables.l0, 1 ≤ p.width ∧ p.offset + p.width ≤ 256) → (∀ p ∈ ins s.tables.l1, p.offset + p.width ≤ 16) →
    let outcome := fun c : Fin 16 => readingOutcome (s.tables.channels.get c) (s.tio.channels.get c) (readings.get c)
    let reads := fun (p : Placement) (c : Fin 16) => p.offset / 16 ≤ c.val ∧ c.val ≤ (p.offset + p.width - 1) / 16 ∧
      (s.tables.channels.get c).enabled = true
    let written := fun (p : Placement) (pattern : Nat) =>
      let number := fieldNumber p.signed p.width pattern
      { s.image.get p.addr.base with
        age := 0
        value := match p.conversion with
          | some c => ((s.tables.conversions.get c).apply number).1
          | none => max (-32768) (min 32767 number)
        quality := if (match p.conversion with
            | some c => ((s.tables.conversions.get c).apply number).2
            | none => decide (number < -32768 ∨ 32767 < number)) then .clamped else .good }
    ∃ t, exec (.scanCompletion samples readings) s = .next t ∧
      (∀ c, t.tio.channels.get c = if (s.tables.channels.get c).enabled then
        steppedChannel (s.tables.channels.get c) (s.tio.channels.get c) (readings.get c) else s.tio.channels.get c) ∧
      (∀ i, t.tio.inputs.get i =
        countedInput s.tio.firstSample (s.tables.inputQ.get i) (samples.getLsbD i.val) (s.tio.inputs.get i)) ∧
      (∀ p ∈ ins s.tables.l0,
        let old := s.image.get p.addr.base
        let raw := Nat.ofBits (fun b : Fin 256 => (s.tables.channels.get ⟨b.val / 16, by omega⟩).enabled &&
          (readings.get ⟨b.val / 16, by omega⟩).getLsbD (b.val % 16)) / 2 ^ p.offset % 2 ^ p.width
        ((∃ c, reads p c ∧ outcome c = .opened) → t.image.get p.addr.base = { old with quality := .suspect .opened }) ∧
        ((∀ c, reads p c → outcome c ≠ .opened) → (∃ c, reads p c ∧ outcome c = .withheld) → t.image.get p.addr.base = old) ∧
        ((∀ c, reads p c → outcome c = .delivered) → t.image.get p.addr.base = written p raw)) ∧
      (∀ p ∈ ins s.tables.l1,
        t.image.get p.addr.base = written p
          (Nat.ofBits (fun b : Fin 16 => (t.tio.inputs.get b).level) / 2 ^ p.offset % 2 ^ p.width)) ∧
      (∀ i, (∀ p ∈ ins s.tables.l0 ++ ins s.tables.l1, p.addr.base ≠ i) → t.image.get i = s.image.get i) ∧
      (∀ i, i < 8 → t.tio.relays.getLsbD i = (t.buildNat (s.tables.lRun s.tables.l2)).testBit i) ∧
      (∀ d, t.feed d = if (s.tables.channels.get (feedChannel d)).enabled then
        { s.feed d with handovers := (s.feed d).handovers ++ [⟨readings.get (feedChannel d), outcome (feedChannel d)⟩] } else s.feed d) ∧
      (let raised := s.raiseAll ((indices 16).flatMap fun c => channelEvents c (s.tio.channels.get c) (t.tio.channels.get c))
       State.Ends { s with
         tio := { s.tio with
           channels := t.tio.channels, inputs := t.tio.inputs, firstSample := false, relays := t.tio.relays, scanInFlight := false }
         image := t.image, feedRt := t.feedRt, events := raised.events, ovf := raised.ovf }
         (fun i => (∃ p ∈ ins s.tables.l1, p.addr.base = i) ∨ ∃ p ∈ ins s.tables.l0, p.addr.base = i ∧
           ((∃ c, reads p c ∧ outcome c = .opened) ∨ ∀ c, reads p c → outcome c ≠ .withheld)) t)

/-- R144, R146 to R148: FEED_READING takes the oldest reading handed over; an enabled monitor steps on its class by the tables of R146 and
R147, with FEED_LOW and a hold on entering LOW, FEED_GOOD and a release on entering GOOD from LOW or RECOVERING; a disabled one stays. The
lists of readings and orders are the model's reading (log 18). R145: the class of a reading. -/
def Obligations.FeedReadingStepsTheMonitor : Prop :=
  (∀ (d : Feed) (h : Handover) (rest : List Handover) (s : State), s.awake → s.operating = .run → (s.feed d).handovers = h :: rest →
    let e := s.tables.feeds.get (feedIx d)
    let f := s.feed d
    let c := classOf e h
    let goes := fun (st : FeedState) (count : Nat) => State.onFeed s d fun f => { f with state := st, count := count, handovers := rest }
    let low := State.raise (.feedLow d h.reading)
      (State.onFeed s d fun f => { f with state := .low, count := 0, handovers := rest, orders := f.orders ++ [.hold] })
    let good := State.raise (.feedGood d h.reading)
      (State.onFeed s d fun f => { f with state := .good, count := 0, handovers := rest, orders := f.orders ++ [.release] })
    let answers := fun t => exec (.feedReading d) s = .next t
    (e.enabled = false → answers (State.onFeed s d fun f => { f with handovers := rest })) ∧
    (e.enabled = true → 1 ≤ e.nL → 1 ≤ e.nG →
      (f.state = .good → answers (if c = .below then (if e.nL = 1 then low else goes .dipping 1) else goes .good 0)) ∧
      (f.state = .dipping → answers (if c = .below then (if e.nL ≤ f.count + 1 then low else goes .dipping (f.count + 1))
        else goes .good 0)) ∧
      (f.state = .low → answers (if c = .above then (if e.nG = 1 then good else goes .recovering 1) else goes .low 0)) ∧
      (f.state = .recovering → answers (if c = .above then (if e.nG ≤ f.count + 1 then good else goes .recovering (f.count + 1))
        else goes .low 0)))) ∧
  (∀ (e : FeedEntry) (r : BitVec 12),
    classOf e ⟨r, .withheld⟩ = .below ∧ classOf e ⟨r, .opened⟩ = .below ∧
    (r.toNat < e.low → classOf e ⟨r, .delivered⟩ = .below) ∧
    (e.low ≤ r.toNat → r.toNat < e.recover → classOf e ⟨r, .delivered⟩ = .between) ∧
    (e.low ≤ r.toNat → e.recover ≤ r.toNat → classOf e ⟨r, .delivered⟩ = .above) ∧
    (e.recover = e.low → ∀ o, classOf e ⟨r, o⟩ ≠ .between))

/-- R115, R149, R12: PORT_HOLD. A CYCLING port, and a Spreader Port in SEARCH, enters HELD. R116, R150, R13: PORT_RELEASE. A HELD Spreader
Port clears its area and searches; a HELD Cab Port returns to CYCLING. Any other port is not changed. The hand-over is taken off the
model's queue of orders (log 18). The non-ABSENT records of a held area, and the records a clearing changes, are the ones touched (log 12, the
model's reading). A held port needs a new rest of its line (log 27, its reading), and the first turn of a Cab Port that returns is chosen at
once and then due (log 10, its choice). -/
def Obligations.PortsTakeHoldsAndReleases : Prop :=
  (∀ (l : MasterLine) (rest : List FeedOrder) (s : State), s.awake → (s.feed (feedOf l)).orders = .hold :: rest →
    let u := s.onFeed (feedOf l) fun f => { f with orders := rest }
    ((s.port l).state = .cycling ∨ (l = .sp ∧ s.sp.state = .search) → ∃ t, exec (.portHold l) s = .next t ∧ PortHeld l u t) ∧
    ((s.port l).state = .off ∨ (s.port l).state = .held ∨ (s.port l).state = .detached → exec (.portHold l) s = .next u)) ∧
  (∀ (l : MasterLine) (rest : List FeedOrder) (s : State), s.awake → (s.feed (feedOf l)).orders = .release :: rest →
    let u := s.onFeed (feedOf l) fun f => { f with orders := rest }
    (l = .sp → s.sp.state = .held → ∃ t, exec (.portRelease l) s = .next t ∧
      (∀ i, t.image.get i = if s.tables.ownedBy .spreader i then (s.image.get i).emptied else s.image.get i) ∧
      State.Ends { u.searching with image := t.image } (fun i => t.image.get i ≠ s.image.get i) t) ∧
    (l = .cp → s.cp.state = .held → ∃ t, exec (.portRelease l) s = .next t ∧ CabResumed u t) ∧
    ((s.port l).state ≠ .held → exec (.portRelease l) s = .next u))

/-! ### Shared operations -/

/-- R171, R172: a raised event enters as the newest record with the present timestamp while fewer than 32 stand in the queue, and is
otherwise discarded, which sets OVF and changes nothing else. -/
def Obligations.EventsEnterOrSetOvf : Prop :=
  ∀ (e : Event) (s : State),
    (s.events.length < 32 → s.raise e = { s with events := s.events ++ [⟨e, s.timestamp⟩] }) ∧
    (32 ≤ s.events.length → s.raise e = { s with ovf := true }) ∧
    (∀ es, (s.raiseAll es).events = s.events ++ (es.take (32 - s.events.length)).map fun e => ⟨e, s.timestamp⟩) ∧
    (∀ es, (s.raiseAll es).ovf = (s.ovf || decide (32 < s.events.length + es.length ∧ es ≠ [])))

/-- R175, R176: the end of an event. In RUN each enabled entry whose signal was touched is checked, in ascending index; an entry whose view is
unset, of another quality, or moved by more than its deadband reports a WATCH event, and takes the view as last reported if the event was
queued. In CONFIG nothing is checked. -/
def Obligations.WatchEntriesReport : Prop :=
  ∀ (s : State) (touched : SigIx → Bool),
    let t := (Work.mk s touched).close
    let view := fun w => s.view (s.tables.watch.get w).signal
    let reports := fun w : Fin 8 => (s.tables.watch.get w).enabled && touched (s.tables.watch.get w).signal &&
      (match s.watchLast.get w with
        | none => true
        | some last => decide (last.2 ≠ (view w).quality) || decide ((s.tables.watch.get w).deadband < ((view w).value - last.1).natAbs))
    let reporting := (indices 8).filter reports
    (s.operating = .config → t = s) ∧
    (s.operating = .run →
      t.events = (s.raiseAll (reporting.map fun w => .watch w (view w).quality (view w).value)).events ∧
      t.ovf = (s.raiseAll (reporting.map fun w => .watch w (view w).quality (view w).value)).ovf ∧
      (∀ w, t.watchLast.get w =
        if reports w = true ∧ s.events.length + (reporting.filter fun v => v < w).length < 32 then some ((view w).value, (view w).quality)
        else s.watchLast.get w) ∧
      t = { s with events := t.events, ovf := t.ovf, watchLast := t.watchLast })

/-- R8, R9, R4: what a signal address yields: the view of the base, or of base + v × scale for a usable selector view of value v within 0 to
15, if that index is assigned; otherwise value 0, ABSENT, age 65535. -/
def Obligations.SignalAddressesResolve : Prop :=
  ∀ (s : State) (a : SigAddr),
    let usable := fun q : ViewQuality => q = .forced ∨ q = .stored .good ∨ q = .stored .clamped
    let assigned := fun i : SigIx => ∃ k, (s.tables.areas.get k).enabled = true ∧ (s.tables.areas.get k).first ≤ i ∧
      i ≤ (s.tables.areas.get k).last
    let names := fun i : SigIx => assigned i ∧ match a.selector with
      | none => i = a.base
      | some sel => usable (s.view sel).quality ∧ 0 ≤ (s.view sel).value ∧ (s.view sel).value ≤ 15 ∧
          (i.val : Int) = a.base.val + (s.view sel).value * a.scale.factor
    (∀ i, names i → s.read a = s.view i) ∧ ((∀ i, ¬names i) → s.read a = ⟨0, .stored .absent, 65535⟩)

/-- R30 to R33, R39, R22: a payload built from placements of which no two OUT fields share a bit has the declared length, and its bits are
those of the number `buildNat`. Each field holds its placement's safe value
unless its gate, if any, is OPEN and its signal's view is usable, and then the view's number, through its conversion and fitted to the field;
every other bit is 0. -/
def Obligations.BuiltFieldsObeyGateAndQuality : Prop :=
  ∀ (s : State) (run : List Placement),
    (run.filter fun p => p.direction == .outbound).Pairwise
      (fun p q => p.offset + p.width ≤ q.offset ∨ q.offset + q.width ≤ p.offset) →
    (∀ p ∈ run, p.direction = .outbound →
      let v := s.read p.addr
      let passes := (∀ g, p.gate = some g → (s.gateRt.get g).state = .opened) ∧
        (v.quality = .forced ∨ v.quality = .stored .good ∨ v.quality = .stored .clamped)
      let number := match p.conversion with
        | some c => ((s.tables.conversions.get c).apply v.value).1
        | none => v.value
      let field := extractField (s.buildNat run) p.offset p.width
      (¬passes → field = p.safe.toNat % 2 ^ p.width) ∧
      (passes → 1 ≤ p.width → fieldNumber p.signed p.width field =
        if p.signed then max (-(2 ^ (p.width - 1))) (min (2 ^ (p.width - 1) - 1) number)
        else max 0 (min (2 ^ p.width - 1) number))) ∧
    (∀ b, (∀ p ∈ run, p.direction = .outbound → b < p.offset ∨ p.offset + p.width ≤ b) → (s.buildNat run).testBit b = false) ∧
    (∀ len, (s.build run len).length = len ∧
      ∀ b, b < 8 * len → ((s.build run len).getD (b / 8) 0).getLsbD (b % 8) = (s.buildNat run).testBit b)

/-- R36, R37: the rounding of the third stage; saturation at the record's limits, and what the two directions make of it. -/
def Obligations.ConversionRoundsAndSaturates : Prop :=
  ((∀ p : Int, roundShift p 0 = p) ∧
  (∀ (p : Int) (s : Nat), 1 ≤ s → s ≤ 15 →
    roundShift p s = Int.fdiv (p + 2 ^ (s - 1)) (2 ^ s) ∧
    (∀ n : Int, (roundShift p s * 2 ^ s - p).natAbs ≤ (n * 2 ^ s - p).natAbs) ∧
    (∀ n : Int, 2 * p = (2 * n + 1) * 2 ^ s → roundShift p s = n + 1)) ∧
  roundShift 5 1 = 3 ∧ roundShift (-5) 1 = -2 ∧ roundShift (-7) 1 = -3 ∧ roundShift (-6) 2 = -1 ∧ roundShift (-7) 2 = -2 ∧
  roundShift 25070 6 = 392 ∧ roundShift (-2530) 6 = -40) ∧
  (∀ (c : Conversion) (r : Int),
    let y := roundShift ((r - c.o) * c.g) c.s + c.c
    (y < c.lo → c.apply r = (c.lo, true)) ∧
    (c.lo ≤ c.hi → c.hi < y → c.apply r = (c.hi, true)) ∧
    (c.lo ≤ y → y ≤ c.hi → c.apply r = (y, false)) ∧
    (c.lo ≤ c.hi → c.lo ≤ (c.apply r).1 ∧ (c.apply r).1 ≤ c.hi) ∧
    (c.lo ≤ c.hi → signalRange c.lo → signalRange c.hi → signalRange (c.apply r).1) ∧
    (c.lo = c.hi → (c.apply r).1 = c.lo ∧ ((c.apply r).2 = true ↔ y ≠ c.lo)) ∧
    (∀ (t : Tables) (p : Placement) (payload : Nat) (k : Fin 64), p.conversion = some k → t.conversions.get k = c →
      r = fieldNumber p.signed p.width (extractField payload p.offset p.width) →
      t.inValue p payload = ((c.apply r).1, if (c.apply r).2 then .clamped else .good)) ∧
    (∀ (t : Tables) (p : Placement) (k : Fin 64), p.conversion = some k → t.conversions.get k = c → t.outValue p r = (c.apply r).1))

/-- R22, R23: the bits of a field, and the number they carry: an UNSIGNED pattern is its own number, a SIGNED one has 2^w taken from it where
bit w − 1 is set, and a number is written as the pattern n mod 2^w. What is inserted is what is extracted, no other bit changes, and a number
of the field's range survives the way into the payload and back. -/
def Obligations.FieldsPackAndUnpack : Prop :=
  ∀ (payload offset width : Nat),
    (∀ i, (extractField payload offset width).testBit i = (decide (i < width) && payload.testBit (offset + i))) ∧
    (∀ pattern b, (insertField payload offset width pattern).testBit b =
      if offset ≤ b ∧ b < offset + width then pattern.testBit (b - offset) else payload.testBit b) ∧
    (∀ bs : List Byte, ∀ b, (leNat bs).testBit b = (bs.getD (b / 8) 0).getLsbD (b % 8)) ∧
    (∀ pattern, fieldNumber false width pattern = pattern) ∧
    (1 ≤ width → ∀ pattern, pattern < 2 ^ width →
      fieldNumber true width pattern = if pattern.testBit (width - 1) then (pattern : Int) - 2 ^ width else pattern) ∧
    (∀ n : Int, (fieldPattern width n : Int) = n % 2 ^ width) ∧
    (1 ≤ width → ∀ n : Int,
      (0 ≤ n → n < 2 ^ width →
        fieldNumber false width (extractField (insertField payload offset width (fieldPattern width n)) offset width) = n) ∧
      (-(2 ^ (width - 1)) ≤ n → n < 2 ^ (width - 1) →
        fieldNumber true width (extractField (insertField payload offset width (fieldPattern width n)) offset width) = n))

/-! ### Frames -/

/-- R65, R68, R69: encode and judge agree: the characters of any frame within its kind's limit, whatever characters follow before the rest,
are judged to be that frame. R65: a frame's bytes, in their order, and the limit of each kind. R68: the CRC, byte by byte, its check value,
and the POLL of its example. -/
def Obligations.SentFramesAreJudgedGood : Prop :=
  (∀ (f : Frame) (later : List LineChar), frameWithinLimit f = true → judge (frameChars f ++ later) = .ok f) ∧
  (∀ f : Frame,
    let kind := match f.kind with | .data => 0 | .poll => 1 | .hail => 2 | .hailReply => 3 | .mgmt => 4 | .mgmtReply => 5
    let limit := match f.kind with | .data => 16 | .poll => 0 | .hail => 0 | .hailReply => 6 | .mgmt => 48 | .mgmtReply => 48
    let covered := BitVec.ofNat 8 (f.address.toNat + 32 * kind) ::
      BitVec.ofNat 8 (f.tag.toNat + (if f.attn then 64 else 0) + (if f.ovf then 128 else 0)) :: BitVec.ofNat 8 f.payload.length :: f.payload
    frameBytes f = 0xC3 :: covered ++ [BitVec.ofNat 8 ((crc covered).toNat / 256), BitVec.ofNat 8 (crc covered).toNat] ∧
    frameChars f = (frameBytes f).map (fun b => ⟨b, true⟩) ∧
    (frameWithinLimit f = true ↔ f.payload.length ≤ limit)) ∧
  (let shift := fun r : BitVec 16 => if r.getLsbD 15 then (r <<< 1) ^^^ 0x1021 else r <<< 1
   crc [] = 0xFFFF ∧
   (∀ (bs : List Byte) (b : Byte), crc (bs ++ [b]) = Nat.repeat shift 8 (crc bs ^^^ (b.setWidth 16 <<< 8))) ∧
   crc [0x31, 0x32, 0x33, 0x34, 0x35, 0x36, 0x37, 0x38, 0x39] = 0x29B1 ∧
   frameBytes ⟨5, .poll, 3, false, false, []⟩ = [0xC3, 0x25, 0x03, 0x00, 0xF4, 0xF9])

/-- R67, R69: a reception fails at the first step that finds a fault, in the order lead, kind, length, CRC; a bad stop bit, a line that
rests too early and a wrong CRC fail the CRC step. -/
def Obligations.ReceptionsFailAtTheirFirstStep : Prop :=
  ∀ (f : Frame) (later : List LineChar), frameWithinLimit f = true →
    (∀ (c : LineChar) (cs : List LineChar), c.data ≠ 0xC3 → judge (c :: cs) = .error .lead) ∧
    (∀ (c d : LineChar) (cs : List LineChar), c.data = 0xC3 → 6 ≤ d.data.toNat / 32 → judge (c :: d :: cs) = .error .kind) ∧
    (∀ (c d g n : LineChar) (cs : List LineChar) (k : Kind), c.data = 0xC3 → kindOfCode (d.data.toNat / 32) = some k →
      kindLimit k < n.data.toNat → judge (c :: d :: g :: n :: cs) = .error .length) ∧
    (∀ m, 1 ≤ m → m < (frameChars f).length → judge ((frameChars f).take m) = .error .crc) ∧
    (∀ i : Nat, i < (frameChars f).length →
      judge ((frameChars f).modify i (fun c => { c with stopGood := false }) ++ later) = .error .crc) ∧
    (∀ (body : List LineChar) (x y : LineChar), frameChars f = body ++ [x, y] →
      (∀ x' y' : LineChar, (x'.data, y'.data) ≠ (x.data, y.data) → judge (body ++ x' :: y' :: later) = .error .crc))

/-! ### The invariant -/

/-- The part right after power-on, its strap read as 0 (log 4), satisfies every part of the invariant. -/
def Obligations.InvariantHoldsAtReset : Prop := State.reset.Inv

/-- R1, R16, R34, R77, R78, R171: no step takes a record, a conversion, the force count, a score, a health or the event queue out of its range. -/
def Obligations.StepKeepsRanges : Prop :=
  (∀ s t : State, s.Inv → step s = .next t → ImageInv t) ∧
  (∀ s t : State, s.Inv → step s = .next t → CountersInv t)

/-- R86, R97, R98, R106, R79, R81: every step keeps the attachment, the timers, the turns and the chain queues to the port states that have
them. -/
def Obligations.StepKeepsPortsConsistent : Prop := ∀ s t : State, s.Inv → step s = .next t → PortInv t

/-- R85, R92, R94, R97: every step keeps the slot runtime within the active sets, the miss counts within their limits, and turns and queue
entries on enabled slots of their direction. -/
def Obligations.StepKeepsSlotsConsistent : Prop := ∀ s t : State, s.Inv → step s = .next t → SlotInv t

/-- R52 to R57, R60, R61, R133, R134, R144: every step keeps the counts of the gates, the monitors, the channels and the digital inputs to
their states and limits. -/
def Obligations.StepKeepsQualifiersConsistent : Prop :=
  (∀ s t : State, s.Inv → step s = .next t → GateInv t) ∧
  (∀ s t : State, s.Inv → step s = .next t → FeedInv t ∧ TrolleyInv t)

/-- R154: in CONFIG every gate is CLOSED, every relay off, both master ports OFF and no signal forced, after every step. -/
def Obligations.StepKeepsConfigAtRest : Prop := ∀ s t : State, s.Inv → step s = .next t → RestInv t

/-- R121, R124, R127, R162, R81, R157: every step keeps the stale timers on enabled IN slots, and the due answer, the pending restart and a
DETACHED port's silence as the festoon line allows them; after every step the flag is yes in RUN, and the tables under it have passed the checks of ENTER_RUN. -/
def Obligations.StepKeepsAnswersAndValidation : Prop :=
  (∀ s t : State, s.Inv → step s = .next t → FestoonInv t) ∧
  (∀ s t : State, s.Inv → step s = .next t → ValidInv t)

/-- R10 to R15, R18, R142: after every step, in RUN the SPREADER records are ABSENT or SUSPECT(FEED) while the Spreader Port is HELD and
ABSENT while it is neither HELD nor CYCLING; the CAB records are ABSENT or SUSPECT(FEED) while the Cab Port is HELD; no SPREADER, CAB or
FESTOON record is SUSPECT(OPEN) and no FESTOON record SUSPECT(FEED); the GATE records are GOOD or ABSENT; the TROLLEY records are ABSENT,
SUSPECT(OPEN), GOOD or CLAMPED; and a record of no area is as a clearing leaves it. The PANEL records are GOOD or ABSENT in either state, and
in CONFIG every other record is as a clearing leaves it. -/
def Obligations.StepKeepsQualities : Prop := ∀ s t : State, s.Inv → step s = .next t → QualityInv t
end

