-- ==== Sys2Proof/Laws/Tab.lean ====
section
/-! SUPPORT. What each operation of a table of fixed size reads back as. -/

namespace Sys2Proof.Machine.Tab
variable {α β : Type} {n : Nat}

/-- Two tables with equal entries are equal. -/
theorem ext_get {s t : Tab α n} (h : ∀ i, s.get i = t.get i) : s = t := by
  obtain ⟨a, ha⟩ := s
  obtain ⟨b, hb⟩ := t
  congr 1
  refine List.ext_getElem (ha.trans hb.symm) fun i h1 h2 => ?_
  exact h ⟨i, ha ▸ h1⟩

@[simp] theorem get_fill (a : α) (i : Fin n) : (fill n a).get i = a := by simp [fill, get]

@[simp] theorem get_set (t : Tab α n) (i j : Fin n) (a : α) : (t.set i a).get j = if j = i then a else t.get j := by
  simp only [get, set, List.getElem_set, Fin.ext_iff, eq_comm]

theorem get_set_self (t : Tab α n) (i : Fin n) (a : α) : (t.set i a).get i = a := by simp

theorem get_set_of_ne (t : Tab α n) {i j : Fin n} (a : α) (h : j ≠ i) : (t.set i a).get j = t.get j := by simp [h]

/-- Writing back what an entry holds changes nothing. -/
@[simp] theorem set_get (t : Tab α n) (i : Fin n) : t.set i (t.get i) = t := by
  refine ext_get fun j => ?_
  rw [get_set]
  split
  · rename_i h; rw [h]
  · rfl

theorem get_modify (t : Tab α n) (i j : Fin n) (f : α → α) :
    (t.modify i f).get j = if j = i then f (t.get i) else t.get j := by simp [modify]

@[simp] theorem get_modify_self (t : Tab α n) (i : Fin n) (f : α → α) : (t.modify i f).get i = f (t.get i) := by
  simp [modify]

theorem modify_eq_set (t : Tab α n) (i : Fin n) (f : α → α) : t.modify i f = t.set i (f (t.get i)) := rfl

@[simp] theorem get_map (t : Tab α n) (f : α → β) (i : Fin n) : (t.map f).get i = f (t.get i) := by simp [map, get]

theorem getElem_mapFrom (f : Fin n → α → β) : ∀ (l : List α) (k : Nat) (h : k + l.length = n) (j : Nat) (hj : j < l.length),
    (mapFrom f l k h)[j]'(by rw [length_mapFrom]; exact hj) = f ⟨k + j, by omega⟩ l[j]
  | a :: l, k, h, 0, _ => rfl
  | a :: l, k, h, j + 1, hj => by
    simp only [mapFrom, List.getElem_cons_succ]
    rw [getElem_mapFrom f l (k + 1) (by simp at h ⊢; omega) j (by simpa using hj)]
    congr 2
    omega

@[simp] theorem get_mapIdx (f : Fin n → α → β) (t : Tab α n) (i : Fin n) : (t.mapIdx f).get i = f i (t.get i) := by
  simp only [get, mapIdx]
  rw [getElem_mapFrom f t.cells 0 (by simpa using t.size) i.val (by rw [t.size]; exact i.isLt)]
  congr 2
  exact Nat.zero_add i.val

/-- Reading by number is reading by index inside the table, and nothing outside it. -/
theorem get?_eq (t : Tab α n) (k : Nat) : t.get? k = if h : k < n then some (t.get ⟨k, h⟩) else none := by
  simp only [get?, get]
  split
  · rename_i h; exact List.getElem?_eq_getElem (by rw [t.size]; exact h)
  · rename_i h; exact List.getElem?_eq_none (by rw [t.size]; omega)

@[simp] theorem get?_val (t : Tab α n) (i : Fin n) : t.get? i.val = some (t.get i) := by simp [get?_eq]

/-- The cells hold an entry exactly where some index reads it. -/
theorem mem_cells {t : Tab α n} {a : α} : a ∈ t.cells ↔ ∃ i, t.get i = a := by
  constructor
  · intro h
    obtain ⟨k, hk, e⟩ := List.getElem_of_mem h
    exact ⟨⟨k, t.size ▸ hk⟩, e⟩
  · rintro ⟨i, rfl⟩; exact List.getElem_mem _

theorem any_cells (t : Tab α n) (p : α → Bool) : t.cells.any p = true ↔ ∃ i, p (t.get i) = true := by
  simp only [List.any_eq_true, mem_cells]
  exact ⟨fun ⟨_, ⟨i, e⟩, h⟩ => ⟨i, e ▸ h⟩, fun ⟨i, h⟩ => ⟨_, ⟨i, rfl⟩, h⟩⟩

/-- The cells in index order. -/
theorem cells_eq (t : Tab α n) : t.cells = (indices n).map t.get := by
  refine List.ext_getElem (by simp [indices, t.size]) fun i h1 h2 => ?_
  simp [indices, get]

end Sys2Proof.Machine.Tab
end

