-- ==== Sys2Proof/Laws/State.lean ====
section
/-! SUPPORT. The named updates of the state, field by field: what each one keeps and what it writes. -/

namespace Sys2Proof.Machine

/-! ### A master port replaced -/

section
variable (s : State) (l : MasterLine) (p : MasterPort)

@[simp] theorem State.setPort_operating : (s.setPort l p).operating = s.operating := by cases l <;> rfl
@[simp] theorem State.setPort_validated : (s.setPort l p).validated = s.validated := by cases l <;> rfl
@[simp] theorem State.setPort_timestamp : (s.setPort l p).timestamp = s.timestamp := by cases l <;> rfl
@[simp] theorem State.setPort_resetHeld : (s.setPort l p).resetHeld = s.resetHeld := by cases l <;> rfl
@[simp] theorem State.setPort_tables : (s.setPort l p).tables = s.tables := by cases l <;> rfl
@[simp] theorem State.setPort_image : (s.setPort l p).image = s.image := by cases l <;> rfl
@[simp] theorem State.setPort_attached : (s.setPort l p).attached = s.attached := by cases l <;> rfl
@[simp] theorem State.setPort_serials : (s.setPort l p).serials = s.serials := by cases l <;> rfl
@[simp] theorem State.setPort_searchTimer : (s.setPort l p).searchTimer = s.searchTimer := by cases l <;> rfl
@[simp] theorem State.setPort_hail : (s.setPort l p).hail = s.hail := by cases l <;> rfl
@[simp] theorem State.setPort_unknownCode : (s.setPort l p).unknownCode = s.unknownCode := by cases l <;> rfl
@[simp] theorem State.setPort_masterRt : (s.setPort l p).masterRt = s.masterRt := by cases l <;> rfl
@[simp] theorem State.setPort_fp : (s.setPort l p).fp = s.fp := by cases l <;> rfl
@[simp] theorem State.setPort_gateRt : (s.setPort l p).gateRt = s.gateRt := by cases l <;> rfl
@[simp] theorem State.setPort_sweepTimer : (s.setPort l p).sweepTimer = s.sweepTimer := by cases l <;> rfl
@[simp] theorem State.setPort_tio : (s.setPort l p).tio = s.tio := by cases l <;> rfl
@[simp] theorem State.setPort_feedRt : (s.setPort l p).feedRt = s.feedRt := by cases l <;> rfl
@[simp] theorem State.setPort_events : (s.setPort l p).events = s.events := by cases l <;> rfl
@[simp] theorem State.setPort_ovf : (s.setPort l p).ovf = s.ovf := by cases l <;> rfl
@[simp] theorem State.setPort_watchLast : (s.setPort l p).watchLast = s.watchLast := by cases l <;> rfl
@[simp] theorem State.setPort_freeDraws : (s.setPort l p).freeDraws = s.freeDraws := by cases l <;> rfl
@[simp] theorem State.setPort_pending : (s.setPort l p).pending = s.pending := by cases l <;> rfl
@[simp] theorem State.setPort_fp_link : (s.setPort l p).link .fp = s.link .fp := by cases l <;> rfl
@[simp] theorem State.setPort_port : (s.setPort l p).port l = p := by cases l <;> rfl
theorem State.setPort_port_of_ne {m : MasterLine} (h : m ≠ l) : (s.setPort l p).port m = s.port m := by
  cases l <;> cases m <;> first | rfl | exact absurd rfl h
@[simp] theorem State.setPort_setPort (q : MasterPort) : (s.setPort l p).setPort l q = s.setPort l q := by cases l <;> rfl
@[simp] theorem State.setPort_self : s.setPort l (s.port l) = s := by cases l <;> rfl

end

/-! ### A link replaced -/

section
variable (s : State) (l : Line) (k : Link)

@[simp] theorem State.setLink_operating : (s.setLink l k).operating = s.operating := by cases l <;> rfl
@[simp] theorem State.setLink_validated : (s.setLink l k).validated = s.validated := by cases l <;> rfl
@[simp] theorem State.setLink_timestamp : (s.setLink l k).timestamp = s.timestamp := by cases l <;> rfl
@[simp] theorem State.setLink_resetHeld : (s.setLink l k).resetHeld = s.resetHeld := by cases l <;> rfl
@[simp] theorem State.setLink_tables : (s.setLink l k).tables = s.tables := by cases l <;> rfl
@[simp] theorem State.setLink_image : (s.setLink l k).image = s.image := by cases l <;> rfl
@[simp] theorem State.setLink_attached : (s.setLink l k).attached = s.attached := by cases l <;> rfl
@[simp] theorem State.setLink_serials : (s.setLink l k).serials = s.serials := by cases l <;> rfl
@[simp] theorem State.setLink_searchTimer : (s.setLink l k).searchTimer = s.searchTimer := by cases l <;> rfl
@[simp] theorem State.setLink_hail : (s.setLink l k).hail = s.hail := by cases l <;> rfl
@[simp] theorem State.setLink_unknownCode : (s.setLink l k).unknownCode = s.unknownCode := by cases l <;> rfl
@[simp] theorem State.setLink_masterRt : (s.setLink l k).masterRt = s.masterRt := by cases l <;> rfl
@[simp] theorem State.setLink_gateRt : (s.setLink l k).gateRt = s.gateRt := by cases l <;> rfl
@[simp] theorem State.setLink_sweepTimer : (s.setLink l k).sweepTimer = s.sweepTimer := by cases l <;> rfl
@[simp] theorem State.setLink_tio : (s.setLink l k).tio = s.tio := by cases l <;> rfl
@[simp] theorem State.setLink_feedRt : (s.setLink l k).feedRt = s.feedRt := by cases l <;> rfl
@[simp] theorem State.setLink_events : (s.setLink l k).events = s.events := by cases l <;> rfl
@[simp] theorem State.setLink_ovf : (s.setLink l k).ovf = s.ovf := by cases l <;> rfl
@[simp] theorem State.setLink_watchLast : (s.setLink l k).watchLast = s.watchLast := by cases l <;> rfl
@[simp] theorem State.setLink_freeDraws : (s.setLink l k).freeDraws = s.freeDraws := by cases l <;> rfl
@[simp] theorem State.setLink_pending : (s.setLink l k).pending = s.pending := by cases l <;> rfl
@[simp] theorem State.setLink_link : (s.setLink l k).link l = k := by cases l <;> rfl
theorem State.setLink_link_of_ne {m : Line} (h : m ≠ l) : (s.setLink l k).link m = s.link m := by
  cases l <;> cases m <;> first | rfl | exact absurd rfl h
@[simp] theorem State.setLink_setLink (k' : Link) : (s.setLink l k).setLink l k' = s.setLink l k' := by cases l <;> rfl
@[simp] theorem State.setLink_self : s.setLink l (s.link l) = s := by cases l <;> rfl
theorem State.setLink_master (m : MasterLine) :
    s.setLink (masterLine m) k = s.setPort m { s.port m with link := k } := by cases m <;> rfl

end

/-! ### The Festoon Port changed -/

section
variable (s : State) (f : FestoonPort → FestoonPort)

@[simp] theorem State.onFp_operating : (s.onFp f).operating = s.operating := rfl
@[simp] theorem State.onFp_validated : (s.onFp f).validated = s.validated := rfl
@[simp] theorem State.onFp_timestamp : (s.onFp f).timestamp = s.timestamp := rfl
@[simp] theorem State.onFp_resetHeld : (s.onFp f).resetHeld = s.resetHeld := rfl
@[simp] theorem State.onFp_tables : (s.onFp f).tables = s.tables := rfl
@[simp] theorem State.onFp_image : (s.onFp f).image = s.image := rfl
@[simp] theorem State.onFp_sp : (s.onFp f).sp = s.sp := rfl
@[simp] theorem State.onFp_cp : (s.onFp f).cp = s.cp := rfl
@[simp] theorem State.onFp_attached : (s.onFp f).attached = s.attached := rfl
@[simp] theorem State.onFp_serials : (s.onFp f).serials = s.serials := rfl
@[simp] theorem State.onFp_searchTimer : (s.onFp f).searchTimer = s.searchTimer := rfl
@[simp] theorem State.onFp_hail : (s.onFp f).hail = s.hail := rfl
@[simp] theorem State.onFp_unknownCode : (s.onFp f).unknownCode = s.unknownCode := rfl
@[simp] theorem State.onFp_masterRt : (s.onFp f).masterRt = s.masterRt := rfl
@[simp] theorem State.onFp_gateRt : (s.onFp f).gateRt = s.gateRt := rfl
@[simp] theorem State.onFp_sweepTimer : (s.onFp f).sweepTimer = s.sweepTimer := rfl
@[simp] theorem State.onFp_tio : (s.onFp f).tio = s.tio := rfl
@[simp] theorem State.onFp_feedRt : (s.onFp f).feedRt = s.feedRt := rfl
@[simp] theorem State.onFp_events : (s.onFp f).events = s.events := rfl
@[simp] theorem State.onFp_ovf : (s.onFp f).ovf = s.ovf := rfl
@[simp] theorem State.onFp_watchLast : (s.onFp f).watchLast = s.watchLast := rfl
@[simp] theorem State.onFp_freeDraws : (s.onFp f).freeDraws = s.freeDraws := rfl
@[simp] theorem State.onFp_pending : (s.onFp f).pending = s.pending := rfl
@[simp] theorem State.onFp_fp : (s.onFp f).fp = f s.fp := rfl
@[simp] theorem State.onFp_port (l : MasterLine) : (s.onFp f).port l = s.port l := by cases l <;> rfl

end

/-! ### One slot's runtime changed -/

section
variable (s : State) (e : MasterIx) (f : MasterRt → MasterRt)

@[simp] theorem State.onSlot_operating : (s.onSlot e f).operating = s.operating := rfl
@[simp] theorem State.onSlot_validated : (s.onSlot e f).validated = s.validated := rfl
@[simp] theorem State.onSlot_timestamp : (s.onSlot e f).timestamp = s.timestamp := rfl
@[simp] theorem State.onSlot_resetHeld : (s.onSlot e f).resetHeld = s.resetHeld := rfl
@[simp] theorem State.onSlot_tables : (s.onSlot e f).tables = s.tables := rfl
@[simp] theorem State.onSlot_image : (s.onSlot e f).image = s.image := rfl
@[simp] theorem State.onSlot_sp : (s.onSlot e f).sp = s.sp := rfl
@[simp] theorem State.onSlot_cp : (s.onSlot e f).cp = s.cp := rfl
@[simp] theorem State.onSlot_attached : (s.onSlot e f).attached = s.attached := rfl
@[simp] theorem State.onSlot_serials : (s.onSlot e f).serials = s.serials := rfl
@[simp] theorem State.onSlot_searchTimer : (s.onSlot e f).searchTimer = s.searchTimer := rfl
@[simp] theorem State.onSlot_hail : (s.onSlot e f).hail = s.hail := rfl
@[simp] theorem State.onSlot_unknownCode : (s.onSlot e f).unknownCode = s.unknownCode := rfl
@[simp] theorem State.onSlot_fp : (s.onSlot e f).fp = s.fp := rfl
@[simp] theorem State.onSlot_gateRt : (s.onSlot e f).gateRt = s.gateRt := rfl
@[simp] theorem State.onSlot_sweepTimer : (s.onSlot e f).sweepTimer = s.sweepTimer := rfl
@[simp] theorem State.onSlot_tio : (s.onSlot e f).tio = s.tio := rfl
@[simp] theorem State.onSlot_feedRt : (s.onSlot e f).feedRt = s.feedRt := rfl
@[simp] theorem State.onSlot_events : (s.onSlot e f).events = s.events := rfl
@[simp] theorem State.onSlot_ovf : (s.onSlot e f).ovf = s.ovf := rfl
@[simp] theorem State.onSlot_watchLast : (s.onSlot e f).watchLast = s.watchLast := rfl
@[simp] theorem State.onSlot_freeDraws : (s.onSlot e f).freeDraws = s.freeDraws := rfl
@[simp] theorem State.onSlot_pending : (s.onSlot e f).pending = s.pending := rfl
@[simp] theorem State.onSlot_masterRt (j : MasterIx) :
    (s.onSlot e f).masterRt.get j = if j = e then f (s.masterRt.get e) else s.masterRt.get j := Tab.get_modify _ _ _ _
@[simp] theorem State.onSlot_port (l : MasterLine) : (s.onSlot e f).port l = s.port l := by cases l <;> rfl
@[simp] theorem State.onSlot_link (l : Line) : (s.onSlot e f).link l = s.link l := by cases l <;> rfl

end

/-! ### Several slots' runtime changed -/

section
variable (s : State) (sel : MasterIx → Bool) (f : MasterSlot → MasterRt → MasterRt)

@[simp] theorem State.onSlots_operating : (s.onSlots sel f).operating = s.operating := rfl
@[simp] theorem State.onSlots_validated : (s.onSlots sel f).validated = s.validated := rfl
@[simp] theorem State.onSlots_timestamp : (s.onSlots sel f).timestamp = s.timestamp := rfl
@[simp] theorem State.onSlots_resetHeld : (s.onSlots sel f).resetHeld = s.resetHeld := rfl
@[simp] theorem State.onSlots_tables : (s.onSlots sel f).tables = s.tables := rfl
@[simp] theorem State.onSlots_image : (s.onSlots sel f).image = s.image := rfl
@[simp] theorem State.onSlots_sp : (s.onSlots sel f).sp = s.sp := rfl
@[simp] theorem State.onSlots_cp : (s.onSlots sel f).cp = s.cp := rfl
@[simp] theorem State.onSlots_attached : (s.onSlots sel f).attached = s.attached := rfl
@[simp] theorem State.onSlots_serials : (s.onSlots sel f).serials = s.serials := rfl
@[simp] theorem State.onSlots_searchTimer : (s.onSlots sel f).searchTimer = s.searchTimer := rfl
@[simp] theorem State.onSlots_hail : (s.onSlots sel f).hail = s.hail := rfl
@[simp] theorem State.onSlots_unknownCode : (s.onSlots sel f).unknownCode = s.unknownCode := rfl
@[simp] theorem State.onSlots_fp : (s.onSlots sel f).fp = s.fp := rfl
@[simp] theorem State.onSlots_gateRt : (s.onSlots sel f).gateRt = s.gateRt := rfl
@[simp] theorem State.onSlots_sweepTimer : (s.onSlots sel f).sweepTimer = s.sweepTimer := rfl
@[simp] theorem State.onSlots_tio : (s.onSlots sel f).tio = s.tio := rfl
@[simp] theorem State.onSlots_feedRt : (s.onSlots sel f).feedRt = s.feedRt := rfl
@[simp] theorem State.onSlots_events : (s.onSlots sel f).events = s.events := rfl
@[simp] theorem State.onSlots_ovf : (s.onSlots sel f).ovf = s.ovf := rfl
@[simp] theorem State.onSlots_watchLast : (s.onSlots sel f).watchLast = s.watchLast := rfl
@[simp] theorem State.onSlots_freeDraws : (s.onSlots sel f).freeDraws = s.freeDraws := rfl
@[simp] theorem State.onSlots_pending : (s.onSlots sel f).pending = s.pending := rfl
@[simp] theorem State.onSlots_masterRt (j : MasterIx) :
    (s.onSlots sel f).masterRt.get j = if sel j then f (s.slotRec j) (s.masterRt.get j) else s.masterRt.get j := by
  simp [State.onSlots]
@[simp] theorem State.onSlots_port (l : MasterLine) : (s.onSlots sel f).port l = s.port l := by cases l <;> rfl
@[simp] theorem State.onSlots_link (l : Line) : (s.onSlots sel f).link l = s.link l := by cases l <;> rfl

end

/-! ### One monitor's runtime changed -/

section
variable (s : State) (d : Feed) (f : FeedRt → FeedRt)

@[simp] theorem State.onFeed_operating : (s.onFeed d f).operating = s.operating := rfl
@[simp] theorem State.onFeed_validated : (s.onFeed d f).validated = s.validated := rfl
@[simp] theorem State.onFeed_timestamp : (s.onFeed d f).timestamp = s.timestamp := rfl
@[simp] theorem State.onFeed_resetHeld : (s.onFeed d f).resetHeld = s.resetHeld := rfl
@[simp] theorem State.onFeed_tables : (s.onFeed d f).tables = s.tables := rfl
@[simp] theorem State.onFeed_image : (s.onFeed d f).image = s.image := rfl
@[simp] theorem State.onFeed_sp : (s.onFeed d f).sp = s.sp := rfl
@[simp] theorem State.onFeed_cp : (s.onFeed d f).cp = s.cp := rfl
@[simp] theorem State.onFeed_attached : (s.onFeed d f).attached = s.attached := rfl
@[simp] theorem State.onFeed_serials : (s.onFeed d f).serials = s.serials := rfl
@[simp] theorem State.onFeed_searchTimer : (s.onFeed d f).searchTimer = s.searchTimer := rfl
@[simp] theorem State.onFeed_hail : (s.onFeed d f).hail = s.hail := rfl
@[simp] theorem State.onFeed_unknownCode : (s.onFeed d f).unknownCode = s.unknownCode := rfl
@[simp] theorem State.onFeed_masterRt : (s.onFeed d f).masterRt = s.masterRt := rfl
@[simp] theorem State.onFeed_fp : (s.onFeed d f).fp = s.fp := rfl
@[simp] theorem State.onFeed_gateRt : (s.onFeed d f).gateRt = s.gateRt := rfl
@[simp] theorem State.onFeed_sweepTimer : (s.onFeed d f).sweepTimer = s.sweepTimer := rfl
@[simp] theorem State.onFeed_tio : (s.onFeed d f).tio = s.tio := rfl
@[simp] theorem State.onFeed_events : (s.onFeed d f).events = s.events := rfl
@[simp] theorem State.onFeed_ovf : (s.onFeed d f).ovf = s.ovf := rfl
@[simp] theorem State.onFeed_watchLast : (s.onFeed d f).watchLast = s.watchLast := rfl
@[simp] theorem State.onFeed_freeDraws : (s.onFeed d f).freeDraws = s.freeDraws := rfl
@[simp] theorem State.onFeed_pending : (s.onFeed d f).pending = s.pending := rfl
@[simp] theorem State.onFeed_feed : (s.onFeed d f).feed d = f (s.feed d) := by simp [State.onFeed, State.feed]
theorem State.onFeed_feed_of_ne {c : Feed} (h : c ≠ d) : (s.onFeed d f).feed c = s.feed c := by
  cases c <;> cases d <;> first | exact absurd rfl h | simp [State.onFeed, State.feed, feedIx, Tab.get_modify]
@[simp] theorem State.onFeed_port (l : MasterLine) : (s.onFeed d f).port l = s.port l := by cases l <;> rfl
@[simp] theorem State.onFeed_link (l : Line) : (s.onFeed d f).link l = s.link l := by cases l <;> rfl

end

/-! ### An event raised -/

section
variable (s : State) (e : Event)

@[simp] theorem State.raise_operating : (s.raise e).operating = s.operating := by unfold State.raise; split <;> rfl
@[simp] theorem State.raise_validated : (s.raise e).validated = s.validated := by unfold State.raise; split <;> rfl
@[simp] theorem State.raise_timestamp : (s.raise e).timestamp = s.timestamp := by unfold State.raise; split <;> rfl
@[simp] theorem State.raise_resetHeld : (s.raise e).resetHeld = s.resetHeld := by unfold State.raise; split <;> rfl
@[simp] theorem State.raise_tables : (s.raise e).tables = s.tables := by unfold State.raise; split <;> rfl
@[simp] theorem State.raise_image : (s.raise e).image = s.image := by unfold State.raise; split <;> rfl
@[simp] theorem State.raise_sp : (s.raise e).sp = s.sp := by unfold State.raise; split <;> rfl
@[simp] theorem State.raise_cp : (s.raise e).cp = s.cp := by unfold State.raise; split <;> rfl
@[simp] theorem State.raise_attached : (s.raise e).attached = s.attached := by unfold State.raise; split <;> rfl
@[simp] theorem State.raise_serials : (s.raise e).serials = s.serials := by unfold State.raise; split <;> rfl
@[simp] theorem State.raise_searchTimer : (s.raise e).searchTimer = s.searchTimer := by unfold State.raise; split <;> rfl
@[simp] theorem State.raise_hail : (s.raise e).hail = s.hail := by unfold State.raise; split <;> rfl
@[simp] theorem State.raise_unknownCode : (s.raise e).unknownCode = s.unknownCode := by unfold State.raise; split <;> rfl
@[simp] theorem State.raise_masterRt : (s.raise e).masterRt = s.masterRt := by unfold State.raise; split <;> rfl
@[simp] theorem State.raise_fp : (s.raise e).fp = s.fp := by unfold State.raise; split <;> rfl
@[simp] theorem State.raise_gateRt : (s.raise e).gateRt = s.gateRt := by unfold State.raise; split <;> rfl
@[simp] theorem State.raise_sweepTimer : (s.raise e).sweepTimer = s.sweepTimer := by unfold State.raise; split <;> rfl
@[simp] theorem State.raise_tio : (s.raise e).tio = s.tio := by unfold State.raise; split <;> rfl
@[simp] theorem State.raise_feedRt : (s.raise e).feedRt = s.feedRt := by unfold State.raise; split <;> rfl
@[simp] theorem State.raise_watchLast : (s.raise e).watchLast = s.watchLast := by unfold State.raise; split <;> rfl
@[simp] theorem State.raise_freeDraws : (s.raise e).freeDraws = s.freeDraws := by unfold State.raise; split <;> rfl
@[simp] theorem State.raise_pending : (s.raise e).pending = s.pending := by unfold State.raise; split <;> rfl
@[simp] theorem State.raise_port (l : MasterLine) : (s.raise e).port l = s.port l := by cases l <;> simp [State.port]
@[simp] theorem State.raise_link (l : Line) : (s.raise e).link l = s.link l := by cases l <;> simp [State.link]
@[simp] theorem State.raise_slotRec (j : MasterIx) : (s.raise e).slotRec j = s.slotRec j := by simp [State.slotRec]
/-- Raising an event changes the queue and OVF alone. -/
theorem State.raise_frame : s.raise e = { s with events := (s.raise e).events, ovf := (s.raise e).ovf } := by
  unfold State.raise; split <;> rfl

end

/-! ### The queue of commands replaced -/

section
variable (s : State) (q : List Instr)

@[simp] theorem State.withPending_operating : (s.withPending q).operating = s.operating := rfl
@[simp] theorem State.withPending_validated : (s.withPending q).validated = s.validated := rfl
@[simp] theorem State.withPending_timestamp : (s.withPending q).timestamp = s.timestamp := rfl
@[simp] theorem State.withPending_resetHeld : (s.withPending q).resetHeld = s.resetHeld := rfl
@[simp] theorem State.withPending_tables : (s.withPending q).tables = s.tables := rfl
@[simp] theorem State.withPending_image : (s.withPending q).image = s.image := rfl
@[simp] theorem State.withPending_sp : (s.withPending q).sp = s.sp := rfl
@[simp] theorem State.withPending_cp : (s.withPending q).cp = s.cp := rfl
@[simp] theorem State.withPending_attached : (s.withPending q).attached = s.attached := rfl
@[simp] theorem State.withPending_serials : (s.withPending q).serials = s.serials := rfl
@[simp] theorem State.withPending_searchTimer : (s.withPending q).searchTimer = s.searchTimer := rfl
@[simp] theorem State.withPending_hail : (s.withPending q).hail = s.hail := rfl
@[simp] theorem State.withPending_unknownCode : (s.withPending q).unknownCode = s.unknownCode := rfl
@[simp] theorem State.withPending_masterRt : (s.withPending q).masterRt = s.masterRt := rfl
@[simp] theorem State.withPending_fp : (s.withPending q).fp = s.fp := rfl
@[simp] theorem State.withPending_gateRt : (s.withPending q).gateRt = s.gateRt := rfl
@[simp] theorem State.withPending_sweepTimer : (s.withPending q).sweepTimer = s.sweepTimer := rfl
@[simp] theorem State.withPending_tio : (s.withPending q).tio = s.tio := rfl
@[simp] theorem State.withPending_feedRt : (s.withPending q).feedRt = s.feedRt := rfl
@[simp] theorem State.withPending_events : (s.withPending q).events = s.events := rfl
@[simp] theorem State.withPending_ovf : (s.withPending q).ovf = s.ovf := rfl
@[simp] theorem State.withPending_watchLast : (s.withPending q).watchLast = s.watchLast := rfl
@[simp] theorem State.withPending_freeDraws : (s.withPending q).freeDraws = s.freeDraws := rfl
@[simp] theorem State.withPending_pending : (s.withPending q).pending = q := rfl

end

/-! ### Derived updates -/

theorem State.onPort_eq (s : State) (l : MasterLine) (f : MasterPort → MasterPort) : s.onPort l f = s.setPort l (f (s.port l)) := rfl

theorem State.setPhase_eq (s : State) (l : Line) (p : LinePhase) : s.setPhase l p = s.setLink l { s.link l with phase := p } := rfl

theorem State.judged_eq (s : State) (l : Line) : s.judged l = s.setLink l { s.link l with phase := .ignoring } := rfl

@[simp] theorem State.link_masterLine (s : State) (l : MasterLine) : s.link (masterLine l) = (s.port l).link := by cases l <;> rfl

end Sys2Proof.Machine
end

