-- ==== Sys2Proof/Laws/Ops.lean ====
section
/-! SUPPORT. What the shared operations can do: one lemma each, cited instead of unfolding the operation. -/

namespace Sys2Proof.Machine

/-! ### Numbers -/

theorem clampInt_eq {lo hi : Int} (h : lo ≤ hi) (v : Int) : clampInt lo hi v = max lo (min hi v) := by
  unfold clampInt; split <;> (try split) <;> omega

theorem clampInt_mem {lo hi : Int} (h : lo ≤ hi) (v : Int) : lo ≤ clampInt lo hi v ∧ clampInt lo hi v ≤ hi := by
  unfold clampInt; split <;> (try split) <;> omega

theorem clampInt_of_mem {lo hi v : Int} (h1 : lo ≤ v) (h2 : v ≤ hi) : clampInt lo hi v = v := by
  unfold clampInt; split <;> (try split) <;> omega

@[simp] theorem length_leBytes : ∀ k n, (leBytes k n).length = k
  | 0, _ => rfl
  | k + 1, n => by simp [leBytes, length_leBytes k]

@[simp] theorem oneByte_eq (n : Nat) : oneByte n = [BitVec.ofNat 8 n] := rfl

@[simp] theorem twoBytes_eq (n : Nat) : twoBytes n = [BitVec.ofNat 8 n, BitVec.ofNat 8 (n / 256)] := rfl

/-- The number read back from a number's bytes, up to the room they give. -/
theorem leNat_leBytes : ∀ k n, leNat (leBytes k n) = n % 256 ^ k
  | 0, n => by simp [leBytes, leNat, Nat.mod_one]
  | k + 1, n => by
    simp only [leBytes, leNat, leNat_leBytes k, BitVec.toNat_ofNat]
    have h : n % (256 * 256 ^ k) = n % 256 + 256 * (n / 256 % 256 ^ k) := Nat.mod_mul
    rw [show (256 : Nat) ^ (k + 1) = 256 * 256 ^ k from Nat.pow_succ', h]

/-! ### Views -/

@[simp] theorem SigRec.view_age (r : SigRec) : r.view.age = r.age := by unfold SigRec.view; split <;> rfl

theorem SigRec.view_of_none {r : SigRec} (h : r.force = none) : r.view = ⟨r.value, .stored r.quality, r.age⟩ := by
  simp [SigRec.view, h]

theorem SigRec.view_of_some {r : SigRec} {v : Int} (h : r.force = some v) : r.view = ⟨v, .forced, r.age⟩ := by
  simp [SigRec.view, h]

theorem ViewQuality.usable_iff (q : ViewQuality) : q.usable = true ↔ q = .forced ∨ q = .stored .good ∨ q = .stored .clamped := by
  cases q with
  | forced => simp [ViewQuality.usable]
  | stored q => cases q <;> simp [ViewQuality.usable]

theorem SigRec.cleared_eq_emptied (r : SigRec) : r.cleared = r.emptied := rfl

theorem Tables.ownedBy_iff (t : Tables) (o : Owner) (i : SigIx) : t.ownedBy o i = true ↔
    ∃ k, (t.areas.get k).enabled = true ∧ (t.areas.get k).first ≤ i ∧ i ≤ (t.areas.get k).last ∧ (t.areas.get k).owner = o := by
  rw [Tables.ownedBy, Tab.any_cells]; simp [AreaEntry.assigns, and_assoc]

theorem Tables.assigned_iff (t : Tables) (i : SigIx) : t.assigned i = true ↔
    ∃ k, (t.areas.get k).enabled = true ∧ (t.areas.get k).first ≤ i ∧ i ≤ (t.areas.get k).last := by
  rw [Tables.assigned, Tab.any_cells]; simp [AreaEntry.assigns, and_assoc]

/-! ### Events -/

/-- The queue keeps its records in place, and new ones come behind. -/
theorem State.raise_appends (s : State) (e : Event) : ∃ ws, (s.raise e).events = s.events ++ ws := by
  unfold State.raise; split
  · exact ⟨_, rfl⟩
  · exact ⟨[], (List.append_nil _).symm⟩

/-- No event takes the queue past 32 records. -/
theorem State.raise_events_le (s : State) (e : Event) (h : s.events.length ≤ 32) : (s.raise e).events.length ≤ 32 := by
  unfold State.raise
  split
  · rename_i hlt; simp only [List.length_append, List.length_singleton]; unfold Config.queueSize at hlt; omega
  · exact h

theorem State.raiseAll_cons (s : State) (e : Event) (es : List Event) : s.raiseAll (e :: es) = (s.raise e).raiseAll es := rfl

theorem State.raiseAll_append (s : State) (es fs : List Event) : s.raiseAll (es ++ fs) = (s.raiseAll es).raiseAll fs := by
  simp [State.raiseAll]

/-- Raising events changes the queue and OVF alone. -/
theorem State.raiseAll_frame (s : State) (es : List Event) :
    s.raiseAll es = { s with events := (s.raiseAll es).events, ovf := (s.raiseAll es).ovf } := by
  induction es generalizing s with
  | nil => rfl
  | cons e es ih =>
    rw [State.raiseAll_cons, ih (s.raise e)]
    simp

/-- The raised events depend on the queue, OVF and the timestamp alone. -/
theorem State.raise_congr {s t : State} (e : Event) (h : s.events = t.events) (ho : s.ovf = t.ovf) (ht : s.timestamp = t.timestamp) :
    (s.raise e).events = (t.raise e).events ∧ (s.raise e).ovf = (t.raise e).ovf := by
  unfold State.raise; rw [h, ht]; split <;> simp [ho]

theorem State.raiseAll_congr {s t : State} (es : List Event) (h : s.events = t.events) (ho : s.ovf = t.ovf)
    (ht : s.timestamp = t.timestamp) : (s.raiseAll es).events = (t.raiseAll es).events ∧ (s.raiseAll es).ovf = (t.raiseAll es).ovf := by
  induction es generalizing s t with
  | nil => exact ⟨h, ho⟩
  | cons e es ih =>
    obtain ⟨h1, h2⟩ := State.raise_congr e h ho ht
    exact ih h1 h2 (by simp [ht])

/-! ### Work -/

@[simp] theorem Work.on_st (w : Work) (f : State → State) : (w.on f).st = f w.st := rfl
@[simp] theorem Work.on_touched (w : Work) (f : State → State) : (w.on f).touched = w.touched := rfl
@[simp] theorem State.work_st (s : State) : s.work.st = s := rfl
@[simp] theorem State.work_touched (s : State) (i : SigIx) : s.work.touched i = false := rfl

/-- A change of selected records changes the image alone. -/
theorem Work.change_frame (w : Work) (sel : SigIx → SigRec → Bool) (f : SigRec → SigRec) :
    (w.change sel f).st = { w.st with image := (w.change sel f).st.image } := rfl

@[simp] theorem Work.change_image (w : Work) (sel : SigIx → SigRec → Bool) (f : SigRec → SigRec) (i : SigIx) :
    (w.change sel f).st.image.get i = if sel i (w.st.image.get i) then f (w.st.image.get i) else w.st.image.get i := by
  simp [Work.change]

theorem Work.changeAt_frame (w : Work) (i : SigIx) (f : SigRec → SigRec) :
    (w.changeAt i f).st = { w.st with image := (w.changeAt i f).st.image } := rfl

@[simp] theorem Work.changeAt_image (w : Work) (i j : SigIx) (f : SigRec → SigRec) :
    (w.changeAt i f).st.image.get j = if j = i then f (w.st.image.get i) else w.st.image.get j := by
  simp [Work.changeAt, Tab.get_modify]

/-- From `s` to `t` only events were raised and last-reported views taken: the queue grew behind, and OVF and the views may differ. -/
def State.Reported (s t : State) : Prop :=
  ∃ events ovf watchLast, t = { s with events := events, ovf := ovf, watchLast := watchLast } ∧ ∃ ws, events = s.events ++ ws

theorem State.Reported.refl (s : State) : s.Reported s := ⟨s.events, s.ovf, s.watchLast, rfl, [], (List.append_nil _).symm⟩

theorem State.Reported.trans {s t u : State} (h : s.Reported t) (k : t.Reported u) : s.Reported u := by
  obtain ⟨ev, ov, wl, rfl, ws, rfl⟩ := h
  obtain ⟨ev', ov', wl', rfl, ws', rfl⟩ := k
  exact ⟨_, ov', wl', rfl, ws ++ ws', List.append_assoc _ _ _⟩

theorem State.Reported.frame {s t : State} (h : s.Reported t) :
    t = { s with events := t.events, ovf := t.ovf, watchLast := t.watchLast } := by
  obtain ⟨ev, ov, wl, rfl, -⟩ := h; rfl

theorem State.Reported.appends {s t : State} (h : s.Reported t) : ∃ ws, t.events = s.events ++ ws := by
  obtain ⟨ev, ov, wl, rfl, ws, rfl⟩ := h; exact ⟨ws, rfl⟩

theorem State.reported_raise (s : State) (e : Event) : s.Reported (s.raise e) := by
  obtain ⟨ws, h⟩ := State.raise_appends s e
  exact ⟨_, _, s.watchLast, State.raise_frame s e, ws, h⟩

theorem State.reported_raiseAll (s : State) (es : List Event) : s.Reported (s.raiseAll es) := by
  induction es generalizing s with
  | nil => exact .refl s
  | cons e es ih => exact (State.reported_raise s e).trans (ih _)

/-- The check of a watch entry only reports. -/
theorem State.reported_checkEntry (s : State) (w : Fin 8) : s.Reported (s.checkEntry w) := by
  simp only [State.checkEntry]
  split
  · split
    · obtain ⟨ev, ov, wl, h, ws, h'⟩ :=
        State.reported_raise s (.watch w (s.view (s.tables.watch.get w).signal).quality (s.view (s.tables.watch.get w).signal).value)
      exact ⟨ev, ov, _, by rw [h], ws, h'⟩
    · exact State.reported_raise _ _
  · exact .refl s

/-- One entry's turn in the checks of an event. -/
def State.watchTurn (touched : SigIx → Bool) (s : State) (w : Fin 8) : State :=
  if (s.tables.watch.get w).enabled && touched (s.tables.watch.get w).signal then s.checkEntry w else s

theorem State.watchChecks_eq (touched : SigIx → Bool) (s : State) :
    s.watchChecks touched = (indices 8).foldl (State.watchTurn touched) s := rfl

theorem State.reported_watchTurns (touched : SigIx → Bool) (ws : List (Fin 8)) (s : State) :
    s.Reported (ws.foldl (State.watchTurn touched) s) := by
  induction ws generalizing s with
  | nil => exact .refl s
  | cons w ws ih =>
    refine State.Reported.trans ?_ (ih _)
    unfold State.watchTurn
    split
    · exact State.reported_checkEntry s w
    · exact .refl s

/-- The end of an event only reports. -/
theorem Work.reported_close (w : Work) : w.st.Reported w.close := by
  unfold Work.close
  split
  · rw [State.watchChecks_eq]; exact State.reported_watchTurns _ _ _
  · exact .refl _

/-- The end of an event changes the queue, OVF and the last-reported views alone. -/
theorem Work.close_frame (w : Work) :
    w.close = { w.st with events := w.close.events, ovf := w.close.ovf, watchLast := w.close.watchLast } := w.reported_close.frame

/-- The end of an event adds its watch events behind the queue. -/
theorem Work.close_appends (w : Work) : ∃ ws, w.close.events = w.st.events ++ ws := w.reported_close.appends

/-! What the end of an event keeps, field by field. -/

@[simp] theorem Work.close_operating (w : Work) : w.close.operating = w.st.operating := by rw [Work.close_frame]
@[simp] theorem Work.close_image (w : Work) : w.close.image = w.st.image := by rw [Work.close_frame]
@[simp] theorem Work.close_masterRt (w : Work) : w.close.masterRt = w.st.masterRt := by rw [Work.close_frame]
@[simp] theorem Work.close_gateRt (w : Work) : w.close.gateRt = w.st.gateRt := by rw [Work.close_frame]
@[simp] theorem Work.close_sp (w : Work) : w.close.sp = w.st.sp := by rw [Work.close_frame]
@[simp] theorem Work.close_cp (w : Work) : w.close.cp = w.st.cp := by rw [Work.close_frame]
@[simp] theorem Work.close_fp (w : Work) : w.close.fp = w.st.fp := by rw [Work.close_frame]
@[simp] theorem Work.close_tio (w : Work) : w.close.tio = w.st.tio := by rw [Work.close_frame]
@[simp] theorem Work.close_feedRt (w : Work) : w.close.feedRt = w.st.feedRt := by rw [Work.close_frame]
@[simp] theorem Work.close_tables (w : Work) : w.close.tables = w.st.tables := by rw [Work.close_frame]
@[simp] theorem Work.close_attached (w : Work) : w.close.attached = w.st.attached := by rw [Work.close_frame]
@[simp] theorem Work.close_port (w : Work) (l : MasterLine) : w.close.port l = w.st.port l := by rw [Work.close_frame]; rfl

/-- In CONFIG the end of an event changes nothing. -/
theorem Work.close_of_config (w : Work) (h : w.st.operating = .config) : w.close = w.st := by simp [Work.close, h]

/-- An event that touched no record ends without a watch check. -/
theorem Work.close_of_untouched (w : Work) (h : ∀ i, w.touched i = false) : w.close = w.st := by
  unfold Work.close
  split
  · rw [State.watchChecks_eq]
    have : ∀ (ws : List (Fin 8)) (s : State), ws.foldl (State.watchTurn w.touched) s = s := by
      intro ws
      induction ws with
      | nil => intro s; rfl
      | cons a ws ih => intro s; rw [List.foldl_cons, ih]; simp [State.watchTurn, h]
    exact this _ _
  · rfl

@[simp] theorem State.close_work (s : State) : s.work.close = s := Work.close_of_untouched _ fun _ => rfl

/-- The end of an event, with the records it touched in other words. -/
theorem Work.ends (w : Work) {touched : SigIx → Prop} (h : ∀ i, w.touched i = true ↔ touched i) : w.st.Ends touched w.close :=
  ⟨w.touched, h, rfl⟩

/-- The end of an event from a state that is the work's own, in other words. -/
theorem Work.ends_of_eq (w : Work) {x : State} {touched : SigIx → Prop} (hx : x = w.st) (h : ∀ i, w.touched i = true ↔ touched i) :
    x.Ends touched w.close := hx ▸ w.ends h

/-- What the end of an event keeps, and that it only adds to the queue. -/
theorem State.Ends.reported {x t : State} {touched : SigIx → Prop} (h : x.Ends touched t) : x.Reported t := by
  obtain ⟨marks, -, rfl⟩ := h; exact Work.reported_close _

/-! ### Lines -/

/-- The end of a good frame: its reception is judged and scored (R69, R77, R78). -/
theorem State.goodScored (l : Line) (s : State) : GoodScored l s ((s.judged l).scoreGood l) := by
  have hk : (s.judged l).link l = { s.link l with phase := .ignoring } := by simp [State.judged, State.setPhase]
  have hj : s.judged l = s.setLink l { s.link l with phase := .ignoring } := rfl
  cases hh : (s.link l).health with
  | active =>
    have e : (s.judged l).scoreGood l = s.setLink l { s.link l with phase := .ignoring, score := (s.link l).score - 1 } := by
      simp only [State.scoreGood, hk, hh]; rw [hj]; simp
    refine ⟨?_, ?_, ?_, ?_⟩ <;> rw [e] <;> simp [hh]
    all_goals cases l <;> rfl
  | degraded =>
    by_cases hs : (s.link l).score - 1 ≤ 63
    · have e : (s.judged l).scoreGood l =
          (s.setLink l { s.link l with phase := .ignoring, score := (s.link l).score - 1, health := .active }).raise
            (.lineRecovered l ((s.link l).score - 1)) := by
        simp only [State.scoreGood, hk, hh, Config.recoveredScore, if_pos hs]; rw [hj]; simp
      have c := State.raise_congr (s := s.setLink l { s.link l with phase := .ignoring, score := (s.link l).score - 1, health := .active })
        (t := s) (.lineRecovered l ((s.link l).score - 1)) (by simp) (by simp) (by simp)
      refine ⟨?_, ?_, ?_, ?_⟩ <;> rw [e]
      · simp [hs]
      · intro _; exact c
      · intro h; exact absurd ⟨hh, hs⟩ h
      · conv_lhs => rw [State.raise_frame]
        cases l <;> simp [State.setLink, State.link]
    · have e : (s.judged l).scoreGood l = s.setLink l { s.link l with phase := .ignoring, score := (s.link l).score - 1 } := by
        simp only [State.scoreGood, hk, hh, Config.recoveredScore, if_neg hs]; rw [hj]; simp
      refine ⟨?_, ?_, ?_, ?_⟩ <;> rw [e]
      · simp [hs, hh]
      · intro h; exact absurd h.2 hs
      · intro _; simp
      · simp; cases l <;> rfl

/-- The end of a reception with a frame error that does not overflow the score (R77, R78). -/
theorem State.errorScored (l : Line) (s : State) : ErrorScored l s ((s.judged l).scoreError l) := by
  have hk : (s.judged l).link l = { s.link l with phase := .ignoring } := by simp [State.judged, State.setPhase]
  have hj : s.judged l = s.setLink l { s.link l with phase := .ignoring } := rfl
  cases hh : (s.link l).health with
  | degraded =>
    have e : (s.judged l).scoreError l = s.setLink l { s.link l with phase := .ignoring, score := (s.link l).score + 8 } := by
      simp only [State.scoreError, hk, hh]; rw [hj]; simp
    refine ⟨?_, ?_, ?_, ?_⟩ <;> rw [e] <;> simp [hh]
    all_goals cases l <;> rfl
  | active =>
    by_cases hs : 96 ≤ (s.link l).score + 8
    · have e : (s.judged l).scoreError l =
          (s.setLink l { s.link l with phase := .ignoring, score := (s.link l).score + 8, health := .degraded }).raise
            (.lineDegraded l ((s.link l).score + 8)) := by
        simp only [State.scoreError, hk, hh, Config.degradedScore, if_pos hs]; rw [hj]; simp
      have c := State.raise_congr (s := s.setLink l { s.link l with phase := .ignoring, score := (s.link l).score + 8, health := .degraded })
        (t := s) (.lineDegraded l ((s.link l).score + 8)) (by simp) (by simp) (by simp)
      refine ⟨?_, ?_, ?_, ?_⟩ <;> rw [e]
      · simp [hs]
      · intro _; exact c
      · intro h; exact absurd ⟨hh, hs⟩ h
      · conv_lhs => rw [State.raise_frame]
        cases l <;> simp [State.setLink, State.link]
    · have e : (s.judged l).scoreError l = s.setLink l { s.link l with phase := .ignoring, score := (s.link l).score + 8 } := by
        simp only [State.scoreError, hk, hh, Config.degradedScore, if_neg hs]; rw [hj]; simp
      refine ⟨?_, ?_, ?_, ?_⟩ <;> rw [e]
      · simp [hh]; omega
      · intro h; exact absurd h.2 hs
      · intro _; simp
      · simp; cases l <;> rfl

/-! ### Answers of commands -/

/-- A command whose event occurs in a part that is awake answers its next state. -/
theorem State.occurs_of {s : State} {possible : Bool} (next : State) (ha : s.awake) (hp : possible = true) :
    s.occurs possible next = .next next := by
  simp only [State.awake] at ha; simp [State.occurs, ha, hp]

/-- A command whose event cannot occur leaves the state. -/
theorem State.occurs_of_false {s : State} (next : State) : s.occurs false next = .next s := by simp [State.occurs]

/-- While the reset input is asserted a command leaves the state. -/
theorem State.occurs_of_held {s : State} (possible : Bool) (next : State) (h : s.resetHeld = true) :
    s.occurs possible next = .next s := by simp [State.occurs, h]

end Sys2Proof.Machine
end

