-- ==== Sys2Proof/Laws/Ports.lean ====
section
/-! SUPPORT. What the engine of a master port can do: visits, cycles, turn boundaries, chain requests. -/

namespace Sys2Proof.Machine

/-! ### Sets and visits -/

theorem State.activeEntry_congr {s t : State} (ha : s.attached = t.attached) (hc : s.cp.state = t.cp.state) (l : MasterLine)
    (k : SlotIx) : s.activeEntry l k = t.activeEntry l k := by
  cases l <;> simp only [State.activeEntry, ha, hc]

theorem State.visit_congr {s t : State} (ha : s.attached = t.attached) (hc : s.cp.state = t.cp.state) (hr : s.masterRt = t.masterRt)
    (ht : s.tables = t.tables) (l : MasterLine) (k : SlotIx) : s.visit l k = t.visit l k := by
  simp only [State.visit, State.activeEntry_congr ha hc, State.slotRec, hr, ht]
  cases t.activeEntry l k <;> rfl

/-- The next turn of a cycle depends on the attachment, the Cab Port's state, the slots and their runtime alone. -/
theorem State.nextVisit_congr {s t : State} (ha : s.attached = t.attached) (hc : s.cp.state = t.cp.state)
    (hr : s.masterRt = t.masterRt) (ht : s.tables = t.tables) (l : MasterLine) (place : Nat) :
    s.nextVisit l place = t.nextVisit l place := by
  simp only [State.nextVisit, State.visit_congr ha hc hr ht]

/-- A master port that keeps its state keeps the next turn of every cycle. -/
theorem State.nextVisit_setPort (s : State) (l m : MasterLine) (p : MasterPort) (place : Nat) (h : p.state = (s.port l).state) :
    (s.setPort l p).nextVisit m place = s.nextVisit m place := by
  refine State.nextVisit_congr (by simp) ?_ (by simp) (by simp) m place
  cases l
  · rfl
  · exact h

/-- A master port that keeps its state keeps the slot sets. -/
theorem State.activeEntry_setPort (s : State) (l m : MasterLine) (p : MasterPort) (k : SlotIx) (h : p.state = (s.port l).state) :
    (s.setPort l p).activeEntry m k = s.activeEntry m k := by
  refine State.activeEntry_congr (by simp) ?_ m k
  cases l
  · rfl
  · exact h

theorem findSome_indices {α : Type} {n : Nat} (f : Fin n → Option α) :
    (∀ a, (indices n).findSome? f = some a ↔ ∃ k, f k = some a ∧ ∀ j, j < k → f j = none) ∧
    ((indices n).findSome? f = none ↔ ∀ k, f k = none) := by
  refine ⟨fun a => ?_, by simp [indices]⟩
  rw [List.findSome?_eq_some_iff]
  constructor
  · rintro ⟨l₁, k, l₂, he, hk, hn⟩
    refine ⟨k, hk, fun j hj => hn j ?_⟩
    have hp : (l₁ ++ k :: l₂).Pairwise (· < ·) := he ▸ List.pairwise_lt_finRange n
    have hm : j ∈ l₁ ++ k :: l₂ := he ▸ List.mem_finRange j
    rw [List.mem_append] at hm
    rcases hm with hm | hm
    · exact hm
    · rcases List.mem_cons.1 hm with e | hm
      · subst e; exact absurd hj (lt_irrefl j)
      · have := (List.pairwise_cons.1 (List.pairwise_append.1 hp).2.1).1 j hm
        exact absurd (hj.trans this) (lt_irrefl j)
  · rintro ⟨k, hk, hn⟩
    have hm : k ∈ indices n := List.mem_finRange k
    obtain ⟨l₁, l₂, he⟩ := List.append_of_mem hm
    refine ⟨l₁, k, l₂, he, hk, fun j hj => hn j ?_⟩
    have hp : (l₁ ++ k :: l₂).Pairwise (· < ·) := he ▸ List.pairwise_lt_finRange n
    exact (List.pairwise_append.1 hp).2.2 j hj k (by simp)

/-! ### Cycles -/

/-- A cycle begins: only the cycle, its timer and the overdue mark of the port change. -/
theorem State.openCycle_eq (s : State) (l : MasterLine) : s.openCycle l = s.setPort l { s.port l with
    cycle := some 0, cycleTimer := some (s.lineEntry (masterLine l)).cyclePeriod, overdue := false } := rfl

/-- A cycle is done exactly when no slot it has yet to visit would take a turn. -/
theorem State.cycleDone_iff (s : State) (l : MasterLine) (place : Nat) : s.cycleDone l place = true ↔ s.nextVisit l place = none := by
  simp [State.cycleDone]

/-- The last regular turn has ended: an overdue cycle is followed by the next, another ends on time. -/
theorem State.endCycle_eq (s : State) (l : MasterLine) : s.endCycle l = s.setPort l (
    if (s.port l).overdue then
      { s.port l with cycle := some 0, cycleTimer := some (s.lineEntry (masterLine l)).cyclePeriod, overdue := false }
    else { s.port l with cycle := none, overrun := false }) := by
  unfold State.endCycle
  split <;> rfl

/-- A cycle that has begun visits its slots: its next turn is due, or it ends. -/
theorem State.takeVisit_eq (s : State) (l : MasterLine) (place : Nat) (h : (s.port l).cycle = some place) :
    s.takeVisit l = s.setPort l { s.port l with
      turn := match s.nextVisit l place with
        | some kt => .due kt.2 kt.1
        | none => (s.port l).turn
      cycle := (s.nextVisit l place).map fun kt => kt.1.val + 1
      overrun := if (s.nextVisit l place).isSome then (s.port l).overrun else false } := by
  unfold State.takeVisit
  simp only [h]
  cases s.nextVisit l place <;> simp [State.onPort_eq]

/-- No cycle in progress visits nothing. -/
theorem State.takeVisit_none (s : State) (l : MasterLine) (h : (s.port l).cycle = none) : s.takeVisit l = s := by
  simp only [State.takeVisit, h]

/-- A cycle starts at an idle port with nothing queued: its first turn is due. -/
theorem State.startCycle_of_idle (s : State) (l : MasterLine) (ht : (s.port l).turn = .none) (hq : (s.port l).queue = []) :
    s.startCycle l = s.setPort l { s.port l with
      cycle := (s.nextVisit l 0).map fun kt => kt.1.val + 1
      turn := match s.nextVisit l 0 with
        | some kt => .due kt.2 kt.1
        | none => .none
      cycleTimer := some (s.lineEntry (masterLine l)).cyclePeriod, overdue := false
      overrun := if (s.nextVisit l 0).isSome then (s.port l).overrun else false } := by
  unfold State.startCycle
  simp only [State.openCycle_eq, State.setPort_port, ht, hq, and_self, if_true]
  rw [State.takeVisit_eq _ l 0 (by simp)]
  simp [State.nextVisit_setPort]

/-- A cycle that starts behind a chained turn has visited no slot. -/
theorem State.startCycle_behind (s : State) (l : MasterLine) (h : ¬((s.port l).turn = .none ∧ (s.port l).queue = [])) :
    s.startCycle l = s.setPort l { s.port l with
      cycle := some 0, cycleTimer := some (s.lineEntry (masterLine l)).cyclePeriod, overdue := false } := by
  unfold State.startCycle
  simp only [State.openCycle_eq, State.setPort_port, h, if_false]

/-- R86: the port enters CYCLING and its first cycle begins: only the port changes. -/
theorem State.enterCycling_eq (s : State) (l : MasterLine) : ∃ cycle turn, s.enterCycling l = s.setPort l { s.port l with
    state := .cycling, cycleTimer := some (s.lineEntry (masterLine l)).cyclePeriod, overdue := false, overrun := false, queue := []
    detachTimer := none, cycle := cycle, turn := turn } ∧
    (∀ k kind, (s.enterCycling l).nextVisit l 0 = some (k, kind) → turn = .due kind k ∧ cycle = some (k.val + 1)) ∧
    ((s.enterCycling l).nextVisit l 0 = none → turn = .none ∧ cycle = none) := by
  let b := s.setPort l { (s.port l).leave .cycling with overrun := false, detachTimer := none }
  have h : s.enterCycling l = _ := State.startCycle_of_idle b l (by simp [b, MasterPort.leave]) (by simp [b, MasterPort.leave])
  have hn : (s.enterCycling l).nextVisit l 0 = b.nextVisit l 0 := by
    rw [h]
    exact State.nextVisit_setPort _ _ _ _ _ rfl
  refine ⟨(b.nextVisit l 0).map fun kt => kt.1.val + 1,
    match b.nextVisit l 0 with
    | some kt => .due kt.2 kt.1
    | none => .none, ?_, fun k kind hk => ?_, fun hk => ?_⟩
  · rw [h]
    simp only [b, State.setPort_port, State.setPort_setPort, MasterPort.leave, ite_self]
    simp [State.lineEntry]
  · rw [hn] at hk
    rw [hk]
    exact ⟨rfl, rfl⟩
  · rw [hn] at hk
    rw [hk]
    exact ⟨rfl, rfl⟩

/-! ### Chain requests -/

/-- A chain request changes at most the queue of its target port, which takes the slot as its newest entry. -/
theorem State.requestTurn_cases (s : State) (l : MasterLine) (k : SlotIx) :
    s.requestTurn l k = s ∨ (k ∉ (s.port l).queue ∧ (s.port l).state = .cycling ∧
      s.requestTurn l k = s.setPort l { s.port l with queue := (s.port l).queue ++ [k] }) := by
  unfold State.requestTurn
  split <;> try exact .inl rfl
  rename_i hs
  split
  · exact .inl rfl
  · rename_i e he
    simp only
    split
    · exact .inl rfl
    · split
      · exact .inl rfl
      · split
        · exact .inl rfl
        · rename_i hq
          exact .inr ⟨by simpa using hq, hs, rfl⟩

end Sys2Proof.Machine
end

