-- ==== Sys2Proof/Laws/Cycles.lean ====
section
/-! SUPPORT. What a turn boundary can do to a port, and what a port's detachment can do to its slots. -/

namespace Sys2Proof.Machine

/-- A cycle settles at a turn boundary: only the cycle, its timer and the overrun marks of the port change. -/
theorem State.settleCycle_eq (s : State) (l : MasterLine) (chained : Bool) : ∃ cycle timer overdue overrun,
    s.settleCycle l chained = s.setPort l { s.port l with
      cycle := cycle, cycleTimer := timer, overdue := overdue, overrun := overrun } := by
  unfold State.settleCycle
  split
  · exact ⟨_, _, _, _, (State.setPort_self s l).symm⟩
  · split
    · rw [State.endCycle_eq]
      split
      · exact ⟨_, _, _, (s.port l).overrun, rfl⟩
      · exact ⟨_, (s.port l).cycleTimer, (s.port l).overdue, _, rfl⟩
    · exact ⟨_, _, _, _, (State.setPort_self s l).symm⟩

/-- The cycle's next visit: only the turn, the cycle and the overrun flag of the port change. -/
theorem State.takeVisit_frame (s : State) (l : MasterLine) : ∃ cycle turn overrun,
    s.takeVisit l = s.setPort l { s.port l with cycle := cycle, turn := turn, overrun := overrun } := by
  cases h : (s.port l).cycle with
  | none => exact ⟨_, _, _, (s.takeVisit_none l h).trans (State.setPort_self s l).symm⟩
  | some place => exact ⟨_, _, _, s.takeVisit_eq l place h⟩

/-- R98: a turn boundary changes the port alone, and neither its state nor its link. -/
theorem State.atBoundary_eq (s : State) (l : MasterLine) :
    ∃ p, s.atBoundary l = s.setPort l p ∧ p.state = (s.port l).state ∧ p.link = (s.port l).link ∧
      p.detachTimer = (s.port l).detachTimer := by
  unfold State.atBoundary
  split
  · obtain ⟨c, tm, od, ov, h⟩ := s.settleCycle_eq l true
    rw [h]
    simp only [State.onPort_eq, State.setPort_port, State.setPort_setPort]
    exact ⟨_, rfl, rfl, rfl, rfl⟩
  · obtain ⟨c, tm, od, ov, h⟩ := (s.onPort l fun p => { p with turn := .none, queue := [] }).settleCycle_eq l false
    obtain ⟨c', t', ov', h'⟩ := ((s.onPort l fun p => { p with turn := .none, queue := [] }).settleCycle l false).takeVisit_frame l
    rw [h', h]
    simp only [State.onPort_eq, State.setPort_port, State.setPort_setPort]
    exact ⟨_, rfl, rfl, rfl, rfl⟩

/-- R79: one slot at its port's detachment: only its runtime, its signals and the queue of events change. -/
theorem Work.detachSlot_frame (l : MasterLine) (w : Work) (ke : SlotIx × MasterIx) :
    (w.detachSlot l ke).st = { w.st with
      masterRt := (w.detachSlot l ke).st.masterRt, image := (w.detachSlot l ke).st.image
      events := (w.detachSlot l ke).st.events, ovf := (w.detachSlot l ke).st.ovf } := by
  unfold Work.detachSlot
  simp only
  split
  · rw [Work.stale, Work.change_frame]
    simp only [Work.on_st]
    conv_lhs => rw [State.raise_frame]
    simp
  · rfl

/-- R79: the slots of a set at their port's detachment. -/
theorem Work.detachSlots_frame (l : MasterLine) (kes : List (SlotIx × MasterIx)) (w : Work) :
    (kes.foldl (Work.detachSlot l) w).st = { w.st with
      masterRt := (kes.foldl (Work.detachSlot l) w).st.masterRt, image := (kes.foldl (Work.detachSlot l) w).st.image
      events := (kes.foldl (Work.detachSlot l) w).st.events, ovf := (kes.foldl (Work.detachSlot l) w).st.ovf } := by
  induction kes generalizing w with
  | nil => rfl
  | cons ke kes ih =>
    rw [List.foldl_cons, ih (w.detachSlot l ke)]
    conv_lhs => rw [Work.detachSlot_frame]

end Sys2Proof.Machine
end

