-- ==== Sys2Proof/Laws/Loss.lean ====
section
/-! SUPPORT. What a miss, the end of an attachment, a hold and the Cab Port's resumption do. -/

namespace Sys2Proof.Machine

/-! ### The records of an event -/

/-- R13: the image after an owner's area was cleared. -/
theorem Work.clearArea_image (w : Work) (o : Owner) (i : SigIx) : (w.clearArea o).st.image.get i =
    if w.st.tables.ownedBy o i then (w.st.image.get i).emptied else w.st.image.get i := by
  rw [Work.clearArea, Work.change_image, SigRec.cleared_eq_emptied]
  by_cases h : (w.st.image.get i).emptied = w.st.image.get i <;> by_cases ho : w.st.tables.ownedBy o i = true <;> simp [h, ho]

/-- R11: the image after some signals went STALE. -/
theorem Work.stale_image (w : Work) (sigs : List SigIx) (i : SigIx) : (w.stale sigs).st.image.get i =
    if (w.st.image.get i).quality.goesStale && sigs.contains i then { w.st.image.get i with quality := .stale }
    else w.st.image.get i := by
  rw [Work.stale, Work.change_image]
  by_cases h : ((w.st.image.get i).quality.goesStale && sigs.contains i) = true <;> simp only [h, if_true] <;> rfl

/-- R12: the image after an owner's area went SUSPECT(FEED). -/
theorem Work.suspectFeed_image (w : Work) (o : Owner) (i : SigIx) : (w.suspectFeed o).st.image.get i =
    if w.st.tables.ownedBy o i = true ∧ (w.st.image.get i).quality ≠ .absent then
      { w.st.image.get i with quality := .suspect .feed }
    else w.st.image.get i := by
  rw [Work.suspectFeed, Work.change_image]
  by_cases h : (w.st.image.get i).quality = .absent <;> by_cases ho : w.st.tables.ownedBy o i = true <;> simp [h, ho, SigRec.marked]

/-- An event has marked some records of `s` STALE, these are the records it has touched, and the rest of the image is as in `s`. -/
def Work.Staled (s : State) (w : Work) : Prop :=
  ∀ i, (w.touched i = false ∧ w.st.image.get i = s.image.get i) ∨
    (w.touched i = true ∧ (s.image.get i).quality.goesStale = true ∧ w.st.image.get i = { s.image.get i with quality := .stale })

theorem Work.Staled.work {s x : State} (h : x.image = s.image) : x.work.Staled s := fun i => .inl ⟨rfl, by rw [← h]; rfl⟩

theorem Work.Staled.on {s : State} {w : Work} (h : w.Staled s) {f : State → State} (hf : (f w.st).image = w.st.image) :
    (w.on f).Staled s := fun i => by
  rw [Work.on_touched, Work.on_st, hf]; exact h i

theorem Work.Staled.stale {s : State} {w : Work} (h : w.Staled s) (sigs : List SigIx) : (w.stale sigs).Staled s := fun i => by
  have ht : (w.stale sigs).touched i = (w.touched i || ((w.st.image.get i).quality.goesStale && sigs.contains i)) := rfl
  rw [ht, Work.stale_image]
  rcases h i with ⟨h1, h2⟩ | ⟨h1, h2, h3⟩
  · rw [h1, h2]
    cases hq : (s.image.get i).quality.goesStale <;> cases hc : sigs.contains i <;> simp
  · rw [h1, h3, h2]
    simp [Quality.goesStale]

/-- The records touched are those that are not as they were. -/
theorem Work.Staled.touched_iff {s : State} {w : Work} (h : w.Staled s) (i : SigIx) :
    w.touched i = true ↔ w.st.image.get i ≠ s.image.get i := by
  rcases h i with ⟨h1, h2⟩ | ⟨h1, h2, h3⟩
  · simp [h1, h2]
  · rw [h1, h3]
    refine ⟨fun _ he => ?_, fun _ => rfl⟩
    have hq : Quality.stale = (s.image.get i).quality := congrArg SigRec.quality he
    rw [← hq] at h2
    exact absurd h2 (by decide)

/-- R13: and they are so after an area was cleared. -/
theorem Work.Staled.clearArea_touched_iff {s : State} {w : Work} (h : w.Staled s) (o : Owner) (i : SigIx) :
    (w.clearArea o).touched i = true ↔ (w.clearArea o).st.image.get i ≠ s.image.get i := by
  have ht : (w.clearArea o).touched i =
      (w.touched i || ((w.st.image.get i).emptied != w.st.image.get i && w.st.tables.ownedBy o i)) := rfl
  rw [ht, Work.clearArea_image]
  by_cases ho : w.st.tables.ownedBy o i = true
  · rw [if_pos ho, ho, Bool.and_true, Bool.or_eq_true, bne_iff_ne]
    rcases h i with ⟨h1, h2⟩ | ⟨h1, h2, h3⟩
    · simp [h1, h2]
    · refine ⟨fun _ he => ?_, fun _ => .inl h1⟩
      have hq : Quality.absent = (s.image.get i).quality := congrArg SigRec.quality he
      rw [← hq] at h2
      exact absurd h2 (by decide)
  · rw [if_neg ho, Bool.eq_false_iff.2 ho, Bool.and_false, Bool.or_false]
    exact h.touched_iff i

/-- R12: the records a hold touches. -/
theorem Work.suspectFeed_touched (w : Work) (o : Owner) (i : SigIx) : (w.suspectFeed o).touched i = true ↔
    w.touched i = true ∨ (w.st.tables.ownedBy o i = true ∧ (w.st.image.get i).quality ≠ .absent) := by
  simp [Work.suspectFeed, Work.change, and_comm]

/-! ### The end of an attachment -/

/-- R85: the end of an attachment drops it and disables its profile's slots. -/
theorem State.dropAttachment_eq (s : State) {p : ProfileIx} (h : s.attached = some p) : s.dropAttachment =
    { s with attached := none, masterRt := s.masterRt.mapIdx fun e rt => if inProfile p e then .idle else rt } := by
  simp [State.dropAttachment, h, State.onSlots]

/-- R113: the end of an attachment whose IN slots are all LOST, as one frame. -/
theorem Work.endAttachment_eq (w : Work) {p : ProfileIx} (h : w.st.attached = some p) : (w.endAttachment p).st =
    { w.st.searching with
      attached := none, masterRt := w.st.masterRt.mapIdx fun e rt => if inProfile p e then .idle else rt
      image := (w.clearArea .spreader).st.image, events := (w.st.raise (.spreaderDetached p 1)).events
      ovf := (w.st.raise (.spreaderDetached p 1)).ovf } := by
  have hr := State.raise_congr (s := w.st.dropAttachment) (t := w.st) (.spreaderDetached p 1)
    (by rw [State.dropAttachment_eq _ h]) (by rw [State.dropAttachment_eq _ h]) (by rw [State.dropAttachment_eq _ h])
  have he : w.st.dropAttachment.raise (.spreaderDetached p 1) = { w.st with
      attached := none, masterRt := w.st.masterRt.mapIdx fun e rt => if inProfile p e then .idle else rt
      events := (w.st.raise (.spreaderDetached p 1)).events, ovf := (w.st.raise (.spreaderDetached p 1)).ovf } := by
    rw [State.raise_frame, hr.1, hr.2, State.dropAttachment_eq _ h]
  have hw : (w.endAttachment p).st = (((w.on fun _ => w.st.dropAttachment.raise (.spreaderDetached p 1)).clearArea
    .spreader).on State.enterSearch).st := rfl
  rw [hw, he]
  rfl

/-- R113: the records that the end of an attachment touches are those of the clearing. -/
theorem Work.endAttachment_touched (w : Work) {p : ProfileIx} (h : w.st.attached = some p) :
    (w.endAttachment p).touched = (w.clearArea .spreader).touched := by
  have hi : (w.st.dropAttachment.raise (.spreaderDetached p 1)).image = w.st.image := by
    rw [State.raise_image, State.dropAttachment_eq _ h]
  have ht : (w.st.dropAttachment.raise (.spreaderDetached p 1)).tables = w.st.tables := by
    rw [State.raise_tables, State.dropAttachment_eq _ h]
  have hw : (w.endAttachment p).touched =
      ((w.on fun _ => w.st.dropAttachment.raise (.spreaderDetached p 1)).clearArea .spreader).touched := rfl
  funext i
  rw [hw, Work.clearArea, Work.clearArea, Work.change, Work.change]
  simp only [Work.on_touched, Work.on_st, hi, ht]

/-- R113: all of the attached profile's IN slots are LOST exactly where every enabled IN slot of the active set is. -/
theorem State.allLost_iff (s : State) : s.allLost = true ↔ ∀ k e, s.activeEntry .sp k = some e →
    (s.slotRec e).enabled = true → (s.slotRec e).direction = .inbound → (s.masterRt.get e).status = .lost := by
  simp only [State.allLost, List.all_eq_true, State.activeSet, List.mem_filterMap, Option.map_eq_some_iff, MasterSlot.polled,
    Bool.or_eq_true, Bool.not_eq_true', Bool.and_eq_false_iff, beq_iff_eq, Prod.forall, Prod.mk.injEq]
  constructor
  · intro h k e he h1 h2
    have h3 := h k e ⟨k, by simp [indices], e, he, rfl, rfl⟩
    simpa [h1, h2] using h3
  · rintro h k e ⟨k', -, e', he, rfl, rfl⟩
    by_cases h1 : (s.slotRec e').enabled = true
    · by_cases h2 : (s.slotRec e').direction = .inbound
      · exact .inr (h k' e' he h1 h2)
      · left; right; simpa using h2
    · left; left; simpa using h1

theorem Work.endIfAllLost_of_not {w : Work} {l : MasterLine} (h : l = .cp ∨ w.st.attached = none ∨ w.st.allLost = false) :
    w.endIfAllLost l = w := by
  unfold Work.endIfAllLost
  split
  · rename_i p hp
    rcases h with h | h | h
    · cases h
    · rw [hp] at h; cases h
    · simp [h]
  · rfl
  · rfl

theorem Work.endIfAllLost_of {w : Work} {p : ProfileIx} (ha : w.st.attached = some p) (hl : w.st.allLost = true) :
    w.endIfAllLost .sp = w.endAttachment p := by
  simp [Work.endIfAllLost, ha, hl]

/-! ### Misses -/

/-- R92: the port and the slot's runtime right after a miss. -/
def State.missed (l : MasterLine) (k : SlotIx) (e : MasterIx) (s : State) : State :=
  { s.setPort l { s.port l with turn := .missed k } with
    masterRt := s.masterRt.set e (missedSlot (s.slotRec e).missLimit (s.masterRt.get e)) }

/-- The event of a slot that a miss makes LOST, before an attachment is judged. -/
def State.missLoss (l : MasterLine) (k : SlotIx) (e : MasterIx) (s : State) : Work :=
  ((s.missed l k e).raise (.slotLost (masterLine l) k)).work.stale (writtenSignals (s.tables.slotRun (s.slotRec e)))

/-- R92, R93: the two courses of a miss. -/
theorem State.miss_cases {l : MasterLine} {k : SlotIx} {e : MasterIx} {s : State} (he : s.activeEntry l k = some e) :
    ((missedSlot (s.slotRec e).missLimit (s.masterRt.get e)).status ≠ .lost ∨ (s.masterRt.get e).status = .lost →
      s.work.miss l k = (s.missed l k e).work) ∧
    ((missedSlot (s.slotRec e).missLimit (s.masterRt.get e)).status = .lost → (s.masterRt.get e).status ≠ .lost →
      s.work.miss l k = (s.missLoss l k e).endIfAllLost l) := by
  have h0 : s.work.st.activeEntry l k = some e := he
  have hs : (s.onSlot e fun _ => missedSlot (s.slotRec e).missLimit (s.masterRt.get e)).onPort l
      (fun p => { p with turn := .missed k }) = s.missed l k e := by cases l <;> rfl
  refine ⟨fun h => ?_, fun h1 h2 => ?_⟩
  · have hc : ¬((missedSlot (s.slotRec e).missLimit (s.masterRt.get e)).status == .lost &&
        !((s.masterRt.get e).status == .lost)) = true := by rcases h with h | h <;> simp [h]
    unfold Work.miss
    rw [h0]
    exact (if_neg hc).trans (congrArg State.work hs)
  · have hc : ((missedSlot (s.slotRec e).missLimit (s.masterRt.get e)).status == .lost &&
        !((s.masterRt.get e).status == .lost)) = true := by simp [h1, h2]
    unfold Work.miss
    rw [h0]
    refine (if_pos hc).trans ?_
    rw [State.missLoss, ← hs]
    rfl

/-- What the loss of one slot has not touched of the rest of the part. -/
theorem State.missLoss_st (s : State) (l : MasterLine) (k : SlotIx) (e : MasterIx) : (s.missLoss l k e).st =
    { s.missed l k e with
      image := (s.work.stale (writtenSignals (s.tables.slotRun (s.slotRec e)))).st.image
      events := (s.raise (.slotLost (masterLine l) k)).events, ovf := (s.raise (.slotLost (masterLine l) k)).ovf } := by
  have hr := State.raise_congr (s := s.missed l k e) (t := s) (.slotLost (masterLine l) k)
    (by simp [State.missed]) (by simp [State.missed]) (by simp [State.missed])
  have hi : (s.missed l k e).image = s.image := by simp [State.missed]
  have hf : (s.missed l k e).raise (.slotLost (masterLine l) k) = { s.missed l k e with
      events := (s.raise (.slotLost (masterLine l) k)).events, ovf := (s.raise (.slotLost (masterLine l) k)).ovf } := by
    rw [State.raise_frame, hr.1, hr.2]
  rw [State.missLoss, hf, Work.stale, Work.change]
  simp only [State.work_st, hi]
  rfl

/-- R113 after a miss: the rest of the active set is judged as it stood before it. -/
theorem State.missLoss_allLost {s : State} {k : SlotIx} {e : MasterIx}
    (hl : (missedSlot (s.slotRec e).missLimit (s.masterRt.get e)).status = .lost) :
    (s.missLoss .sp k e).st.allLost = true ↔ ∀ k' e', s.activeEntry .sp k' = some e' → e' ≠ e →
      (s.slotRec e').enabled = true → (s.slotRec e').direction = .inbound → (s.masterRt.get e').status = .lost := by
  rw [State.allLost_iff]
  have ha : ∀ j, (s.missLoss .sp k e).st.activeEntry .sp j = s.activeEntry .sp j := by
    intro j; rw [State.missLoss_st]; rfl
  have hm : ∀ j, (s.missLoss .sp k e).st.slotRec j = s.slotRec j := by
    intro j; rw [State.missLoss_st]; rfl
  have hr : ∀ j, (s.missLoss .sp k e).st.masterRt.get j =
      if j = e then missedSlot (s.slotRec e).missLimit (s.masterRt.get e) else s.masterRt.get j := by
    intro j; rw [State.missLoss_st]; exact Tab.get_set _ _ _ _
  simp only [ha, hm, hr]
  constructor
  · intro h k' e' h1 h2 h3 h4; simpa [h2] using h k' e' h1 h3 h4
  · intro h k' e' h1 h2 h3
    by_cases h4 : e' = e
    · rw [if_pos h4]; exact hl
    · rw [if_neg h4]; exact h k' e' h1 h4 h2 h3

/-- R90, R92, R93, R113: the turn of a slot of the active set ends in a miss, as one event. -/
theorem State.miss_taken {l : MasterLine} {k : SlotIx} {e : MasterIx} {s : State} (he : s.activeEntry l k = some e) :
    MissTaken l k e s (s.work.miss l k).close := by
  obtain ⟨hc, hd⟩ := State.miss_cases he
  refine ⟨fun h => ?_, fun h1 h2 h3 => ?_, fun h1 h2 h3 p hp hall => ?_⟩
  · rw [hc h, State.close_work]; rfl
  · rw [hd h1 h2, Work.endIfAllLost_of_not]
    · rfl
    · rcases h3 with h3 | h3 | ⟨k', e', h4, h5, h6, h7, h8⟩
      · exact .inl h3
      · exact .inr (.inl (by rw [State.missLoss_st]; cases l <;> exact h3))
      · cases l with
        | cp => exact .inl rfl
        | sp =>
          refine .inr (.inr (Bool.eq_false_iff.2 fun h => h8 ?_))
          exact (State.missLoss_allLost h1).1 h k' e' h4 h5 h6 h7
  · subst h3
    have ha : (s.missLoss .sp k e).st.attached = some p := by rw [State.missLoss_st]; exact hp
    have hw : s.work.miss .sp k = (s.missLoss .sp k e).endAttachment p :=
      (hd h1 h2).trans (Work.endIfAllLost_of ha ((State.missLoss_allLost h1).2 hall))
    have hst := Work.endAttachment_eq _ ha
    have hsd : (s.missLoss .sp k e).Staled s := by
      refine Work.Staled.stale (Work.Staled.work ?_) _
      rw [State.raise_image]; rfl
    have hrs := State.raise_congr (s := (s.missLoss .sp k e).st) (t := s.raise (.slotLost .sp k)) (.spreaderDetached p 1)
      (by rw [State.missLoss_st]; rfl) (by rw [State.missLoss_st]; rfl) (by rw [State.missLoss_st]; simp [State.missed])
    rw [hw]
    refine ⟨fun e' => ?_, fun i => ?_, Work.ends_of_eq _ ?_ fun i => ?_⟩
    · simp only [Work.close_masterRt, hst]
      refine (Tab.get_mapIdx _ _ _).trans ?_
      rw [State.missLoss_st]
      by_cases hp' : e'.val / 16 = p.val
      · simp [inProfile, hp', MasterRt.idle]
      · have hne : e' ≠ e := by
          rintro rfl
          simp only [State.activeEntry, hp, Option.map_some, Option.some.injEq] at he
          apply hp'
          rw [← he]
          have := k.isLt
          simp only [profileEntry]; omega
        simp [inProfile, hp', State.missed, hne]
    · simp only [Work.close_image, hst]
      refine (Work.clearArea_image _ _ _).trans ?_
      have hi : (s.missLoss .sp k e).st.image.get i =
          (s.work.stale (writtenSignals (s.tables.slotRun (s.slotRec e)))).st.image.get i := by rw [State.missLoss_st]
      have ht : (s.missLoss .sp k e).st.tables = s.tables := by rw [State.missLoss_st]; rfl
      rw [ht, hi, Work.stale_image]
      by_cases ho : s.tables.ownedBy .spreader i = true
      · rw [if_pos ho, if_pos ho]
        by_cases hq : ((s.image.get i).quality.goesStale &&
            (writtenSignals (s.tables.slotRun (s.slotRec e))).contains i) = true
        · simp only [State.work_st, hq, if_true]; rfl
        · simp only [State.work_st, hq]; rfl
      · rw [if_neg ho, if_neg ho]; rfl
    · simp only [Work.close_image, Work.close_masterRt]
      rw [hst, hrs.1, hrs.2, State.missLoss_st]
      rfl
    · simp only [Work.close_image]
      rw [hst, Work.endAttachment_touched _ ha]
      exact hsd.clearArea_touched_iff .spreader i

/-! ### Holds and the Cab Port's resumption -/

/-- R115: what a hold does to the attachment. -/
theorem Work.holdAttachment_st (w : Work) : w.holdAttachment.touched = w.touched ∧ w.holdAttachment.st = { w.st with
    attached := none, masterRt := w.holdAttachment.st.masterRt, events := w.holdAttachment.st.events, ovf := w.holdAttachment.st.ovf } ∧
    (∀ p, w.st.attached = some p → w.holdAttachment.st.events = (w.st.raise (.spreaderDetached p 3)).events ∧
      ∀ e, w.holdAttachment.st.masterRt.get e = if e.val / 16 = p.val then ⟨.disabled, 0, false, 0⟩ else w.st.masterRt.get e) ∧
    (w.st.attached = none → w.holdAttachment = w) := by
  cases h : w.st.attached with
  | none =>
    have e : w.holdAttachment = w := by simp [Work.holdAttachment, h]
    rw [e]
    refine ⟨rfl, ?_, fun p hp => (nomatch hp), fun _ => rfl⟩
    rw [← h]
  | some p =>
    have e : w.holdAttachment = w.on fun s => s.dropAttachment.raise (.spreaderDetached p 3) := by simp [Work.holdAttachment, h]
    have hr := State.raise_congr (s := w.st.dropAttachment) (t := w.st) (.spreaderDetached p 3)
      (by rw [State.dropAttachment_eq _ h]) (by rw [State.dropAttachment_eq _ h]) (by rw [State.dropAttachment_eq _ h])
    rw [e]
    refine ⟨rfl, ?_, fun q hq => ?_, fun h' => nomatch h'⟩
    · rw [Work.on_st]
      conv_lhs => rw [State.raise_frame, State.dropAttachment_eq _ h]
      simp only [State.raise_masterRt]
      rw [State.dropAttachment_eq _ h]
    · obtain rfl : p = q := Option.some.inj hq
      refine ⟨hr.1, fun e => ?_⟩
      rw [Work.on_st, State.raise_masterRt, State.dropAttachment_eq _ h]
      simp only [Tab.get_mapIdx, inProfile, beq_iff_eq]
      rfl

/-- R115: the events of a hold. -/
theorem Work.holdAttachment_raised (w : Work) :
    w.holdAttachment.st.events = (w.st.raiseAll (w.st.attached.toList.map fun p => .spreaderDetached p 3)).events ∧
    w.holdAttachment.st.ovf = (w.st.raiseAll (w.st.attached.toList.map fun p => .spreaderDetached p 3)).ovf := by
  cases h : w.st.attached with
  | none => rw [(w.holdAttachment_st).2.2.2 h]; exact ⟨rfl, rfl⟩
  | some p =>
    have e : w.holdAttachment = w.on fun s => s.dropAttachment.raise (.spreaderDetached p 3) := by simp [Work.holdAttachment, h]
    rw [e]
    exact State.raise_congr (s := w.st.dropAttachment) (t := w.st) (.spreaderDetached p 3)
      (by rw [State.dropAttachment_eq _ h]) (by rw [State.dropAttachment_eq _ h]) (by rw [State.dropAttachment_eq _ h])

/-- R115, R149, R12: a hold as one event. -/
theorem State.hold_held (l : MasterLine) (s : State) : PortHeld l s (s.work.hold l).close := by
  cases l with
  | cp =>
    have hw : s.work.hold .cp =
        (s.work.on fun s => s.onPort .cp fun p => { (p.leave .held).cut with detachTimer := none }).suspectFeed .cab := rfl
    have hi : ∀ i, (s.work.hold .cp).close.image.get i = (s.work.suspectFeed .cab).st.image.get i := fun i => by
      rw [Work.close_image]; rfl
    refine ⟨?_, fun i h1 h2 => ?_, fun i h => ?_, (fun p h => by cases h), fun _ => ?_, Work.ends_of_eq _ ?_ fun i => ?_⟩
    · rw [Work.close_port]; rfl
    · exact (hi i).trans ((Work.suspectFeed_image _ _ _).trans (if_pos ⟨h1, h2⟩))
    · refine (hi i).trans ((Work.suspectFeed_image _ _ _).trans (if_neg fun hh => ?_))
      rcases h with h | h
      · exact Bool.false_ne_true (h.symm.trans hh.1)
      · exact hh.2 h
    · rw [Work.close_masterRt]; rfl
    · rw [Work.close_port, Work.close_masterRt, Work.close_image]; rfl
    · rw [hw, Work.suspectFeed_touched]
      exact or_iff_right (by simp)
  | sp =>
    let w : Work := s.work.on fun s => (s.onPort .sp fun p => { (p.leave .held).cut with detachTimer := none }).stopSearch
    obtain ⟨h1, h2, h3, h4⟩ := w.holdAttachment_st
    have h5 := w.holdAttachment_raised
    have hw : s.work.hold .sp = w.holdAttachment.suspectFeed .spreader := rfl
    have hi : w.holdAttachment.st.image = s.image := by rw [h2]; rfl
    have ht : w.holdAttachment.st.tables = s.tables := by rw [h2]; rfl
    have hst : (s.work.hold .sp).st = { w.holdAttachment.st with image := (s.work.suspectFeed .spreader).st.image } := by
      rw [hw, Work.suspectFeed, Work.change, hi, ht]
      rfl
    have hst' := hst.trans (congrArg (fun x : State => { x with image := (s.work.suspectFeed .spreader).st.image }) h2)
    refine ⟨?_, fun i h1 h2 => ?_, fun i h => ?_, fun p _ hp e => ?_, fun h => ?_, Work.ends_of_eq _ ?_ fun i => ?_⟩
    · rw [Work.close_port, hst']; rfl
    · rw [Work.close_image, hst']; exact (Work.suspectFeed_image _ _ _).trans (if_pos ⟨h1, h2⟩)
    · rw [Work.close_image, hst']
      refine (Work.suspectFeed_image _ _ _).trans (if_neg fun hh => ?_)
      rcases h with h | h
      · exact Bool.false_ne_true (h.symm.trans hh.1)
      · exact hh.2 h
    · rw [Work.close_masterRt, hst]; exact (h3 p hp).2 e
    · rcases h with h | h
      · cases h
      · rw [Work.close_masterRt, hst, h4 h]; rfl
    · have hr := fun es => State.raiseAll_congr (s := w.st) (t := s) es rfl rfl rfl
      rw [Work.close_port, Work.close_masterRt, Work.close_image, hst', h5.1, h5.2, (hr _).1, (hr _).2]
      rfl
    · rw [hw, Work.suspectFeed_touched, h1, hi, ht]
      exact or_iff_right (by simp [w])

/-- R86: the runtime of a slot when its Cab Port returns to CYCLING. -/
theorem resumedSlot_eq (m : MasterSlot) (rt : MasterRt) : resumedSlot m rt =
    if m.enabled then (if m.direction = .inbound then { rt with status := .awaiting, misses := 0 } else { rt with status := .live })
    else rt := by
  unfold resumedSlot
  cases m.enabled <;> cases m.direction <;> rfl

/-- R86, R150: the Cab Port returns to CYCLING. -/
theorem State.resumeCab_resumed (s : State) : CabResumed s s.resumeCab := by
  obtain ⟨cycle, turn, he, h1, h2⟩ := (s.onSlots isCabEntry resumedSlot).enterCycling_eq .cp
  have hr : s.resumeCab = (s.onSlots isCabEntry resumedSlot).enterCycling .cp := rfl
  have hs : s.resumeCab = { s with
      masterRt := (s.onSlots isCabEntry resumedSlot).masterRt
      cp := { s.cp with
        state := .cycling, cycleTimer := some (s.lineEntry .cp).cyclePeriod, overdue := false, overrun := false, queue := []
        detachTimer := none, cycle := cycle, turn := turn } } := hr.trans he
  refine ⟨?_, fun k kind h => ?_, fun h => ?_, fun k => ?_, fun p k => ?_, ?_⟩
  · rw [hs]
  · rw [hr] at h; rw [hs]; exact h1 k kind h
  · rw [hr] at h; rw [hs]; exact h2 h
  · rw [hs]
    refine (State.onSlots_masterRt _ _ _ _).trans ?_
    rw [if_pos (by simp [isCabEntry, cabEntry]), resumedSlot_eq]
  · rw [hs]
    refine (State.onSlots_masterRt _ _ _ _).trans (if_neg fun h => ?_)
    have h1 := p.isLt
    have h2 := k.isLt
    have h3 : 64 ≤ p.val * 16 + k.val := of_decide_eq_true h
    omega
  · rw [hs]

end Sys2Proof.Machine
end

