-- ==== Sys2Proof/Laws/Management.lean ====
section
/-! SUPPORT. What taking a management command does: its frame scored, its checks, its effect, its reply due. -/

namespace Sys2Proof.Machine

/-- The reply that a served command leaves due. -/
theorem State.replyDue_eq (tag : BitVec 6) (code status : Nat) (data : List Byte) (rate : Rate) (s : State) :
    State.replyDue tag (oneByte code ++ oneByte status ++ data) rate s = s.replying tag code status data rate := rfl

/-- A command that touches no record leaves its state with its reply due. -/
def Served.answered (r : Served) (tag : BitVec 6) (code : Nat) (rate : Rate) : Work :=
  r.work.on (State.replying tag code (statusCode r.status) r.data rate)

/-- A management row that is taken: the command acts on the part after its frame was scored, and its reply is due at the rate that held
before it. -/
theorem State.manage_eq {s : State} (ha : s.awake) (hr : s.festoonReceives = true) (tag : BitVec 6) (code need : Nat)
    {req : List Byte} (hf : requestFits req = true) (command : Work → Served) :
    s.manage tag code need req command =
      .next ((withRequest need req command s.festoonGood.work).answered tag code s.festoonGood.fp.link.rate).close := by
  unfold State.manage
  rw [State.occurs_of _ ha (by simp [hr, hf])]
  rfl

/-- A request that is long enough is served. -/
theorem withRequest_of_le {need : Nat} {req : List Byte} (h : need ≤ req.length) (command : Work → Served) (w : Work) :
    withRequest need req command w = command w := if_neg (by omega)

/-- A request that is too short is refused RANGE. -/
theorem withRequest_of_lt {need : Nat} {req : List Byte} (h : req.length < need) (command : Work → Served) (w : Work) :
    withRequest need req command w = w.refuse .range := if_pos h

/-- A command that leaves an untouched image leaves just its state with the reply due. -/
theorem Served.answered_close (r : Served) (tag : BitVec 6) (code : Nat) (rate : Rate) (h : ∀ i, r.work.touched i = false) :
    (r.answered tag code rate).close = r.work.st.replying tag code (statusCode r.status) r.data rate :=
  Work.close_of_untouched _ h

/-- A refused command changes nothing but the reply. -/
theorem State.refused_close (s : State) (st : Status) (tag : BitVec 6) (code : Nat) (rate : Rate) :
    ((s.work.refuse st).answered tag code rate).close = s.replying tag code (statusCode st) [] rate :=
  Served.answered_close _ _ _ _ fun _ => rfl

end Sys2Proof.Machine
end

