-- ==== Sys2Proof/Laws/Modes.lean ====
section
/-! SUPPORT. What entering CONFIG, entering RUN, the warm restart and the beginning of a festoon reception do. -/

namespace Sys2Proof.Machine

/-! ### CONFIG -/

theorem FestoonPort.dropData_eq (p : FestoonPort) : p.dropData = { p with due := p.dropData.due } := by
  unfold FestoonPort.dropData; split <;> rfl

theorem FestoonPort.dropData_of_data {p : FestoonPort} {k : SlotIx} (h : p.due = some (.data k)) : p.dropData.due = none := by
  simp [FestoonPort.dropData, h]

theorem FestoonPort.dropData_of_not_data {p : FestoonPort} (h : ∀ k, p.due ≠ some (.data k)) : p.dropData.due = p.due := by
  unfold FestoonPort.dropData; split
  · rename_i k hk; exact absurd hk (h k)
  · rfl
  · rfl

/-- The whole of the entry into CONFIG, field by field. -/
theorem State.toConfig_eq (s : State) : s.toConfig = { s with
    operating := .config, image := s.toConfig.image, sp := s.sp.stopped, cp := s.cp.stopped, attached := none, searchTimer := none
    hail := .off, masterRt := .fill 80 .idle, gateRt := .fill 32 .closed, sweepTimer := none, tio := .atRest
    feedRt := .fill 2 .fresh
    fp := { s.fp with slots := .fill 16 .idle, due := s.fp.stopSet.dropData.due } } := by
  have e : s.fp.stopSet.dropData = { s.fp with slots := .fill 16 .idle, due := s.fp.stopSet.dropData.due } := by
    conv_lhs => rw [FestoonPort.dropData_eq]
    rfl
  conv_lhs => simp only [State.toConfig, State.onFp, State.dropForces, State.clearImage, State.resetFeeds, State.closeGates,
    State.portsOff]
  rw [e]
  rfl

/-- R161, R18: the image after entering CONFIG: no force part, and only PANEL records kept. -/
theorem State.toConfig_image (s : State) (i : SigIx) : s.toConfig.image.get i =
    if s.tables.ownedBy .panel i then { s.image.get i with force := none } else ⟨0, .absent, 65535, none⟩ := by
  simp only [State.toConfig, State.dropForces, State.clearImage, State.resetFeeds, State.closeGates, State.portsOff, State.onFp,
    Tab.get_map, Tab.get_mapIdx]
  by_cases h : s.tables.ownedBy .panel i = true
  · simp [h]
  · simp [h, SigRec.cleared, Config.maxAge]

/-- R161: entering CONFIG. -/
theorem State.toConfig_entry (s : State) : ConfigEntry s s.toConfig := by
  have h := s.toConfig_eq
  refine ⟨?_, ?_, ?_, ?_, ?_, ?_, ?_, ?_, ?_, ?_, ?_, ?_⟩
  · intro e; rw [h]; simp [MasterRt.idle]
  · intro k; rw [h]; simp [FestoonRt.idle]
  · intro k hk; rw [h]; exact FestoonPort.dropData_of_data (p := s.fp.stopSet) hk
  · intro hk; rw [h]; exact FestoonPort.dropData_of_not_data (p := s.fp.stopSet) hk
  · intro g; rw [h]; simp [GateRt.closed]
  · intro d; rw [h]; simp [FeedRt.fresh]
  · intro c; rw [h]; simp [TrolleyIO.atRest, ChannelRt.fresh]
  · intro i; rw [h]; simp [TrolleyIO.atRest, InputRt.fresh]
  · rw [h]; simp [TrolleyIO.atRest]
  · intro i hi; rw [State.toConfig_image, if_pos hi]
  · intro i hi; rw [State.toConfig_image, hi]; rfl
  · rw [h]

/-! ### RUN -/

/-- R160, R18: the image after entering RUN: only PANEL records kept, force parts kept. -/
theorem State.clearImage_image (s : State) (i : SigIx) :
    s.clearImage.image.get i = if s.tables.ownedBy .panel i then s.image.get i else (s.image.get i).emptied := by
  simp only [State.clearImage, Tab.get_mapIdx]; rfl

/-- The part at the entry into RUN before the two master ports start. -/
def State.runBase (s : State) : State := { s with
  operating := .run, image := s.clearImage.image
  sp := { s.sp.stopped with link := { s.sp.stopped.link with rate := (s.lineEntry .sp).rate } }
  cp := { s.cp.stopped with link := { s.cp.stopped.link with rate := (s.lineEntry .cp).rate } }
  attached := none, searchTimer := none, hail := .off, masterRt := .fill 80 .idle
  fp := { s.fp with
    slots := s.fp.slots.mapIdx fun k rt => startedFestoon (s.tables.festoonSlots.get k) rt
    link := { s.fp.link with rate := (s.lineEntry .fp).rate } }
  gateRt := .fill 32 .closed, sweepTimer := some s.tables.sweepPeriod
  tio := { TrolleyIO.atRest with scanTimer := some s.tables.scanPeriod, scanInFlight := true }
  feedRt := .fill 2 .fresh, watchLast := .fill 8 none }

theorem State.toRun_eq (s : State) : s.toRun = s.runBase.startCab.startSpreader := rfl

/-- R86: the Cab Port starts: only it and its slots change, and its first cycle begins at once. -/
theorem State.startCab_eq (s : State) (h : (s.lineEntry .cp).enabled = true) : ∃ cycle turn, s.startCab = { s with
    masterRt := (s.onSlots isCabEntry startedSlot).masterRt
    cp := { s.cp with
      state := .cycling, cycleTimer := some (s.lineEntry .cp).cyclePeriod, overdue := false, overrun := false, queue := []
      detachTimer := none, cycle := cycle, turn := turn } } ∧
    (∀ k kind, s.startCab.nextVisit .cp 0 = some (k, kind) → turn = .due kind k ∧ cycle = some (k.val + 1)) ∧
    (s.startCab.nextVisit .cp 0 = none → turn = .none ∧ cycle = none) := by
  obtain ⟨cycle, turn, he, h1, h2⟩ := (s.onSlots isCabEntry startedSlot).enterCycling_eq .cp
  have e : s.startCab = (s.onSlots isCabEntry startedSlot).enterCycling .cp := by rw [State.startCab, if_pos h]
  rw [e]
  exact ⟨cycle, turn, he.trans rfl, h1, h2⟩

/-- R86, R106: the Spreader Port starts: only it and its search change. -/
theorem State.startSpreader_eq (s : State) : s.startSpreader = { s with
    sp := if (s.lineEntry .sp).enabled then { s.sp.leave .search with detachTimer := none } else s.sp
    unknownCode := if (s.lineEntry .sp).enabled then none else s.unknownCode
    hail := if (s.lineEntry .sp).enabled then .firstDue else s.hail
    searchTimer := if (s.lineEntry .sp).enabled then none else s.searchTimer } := by
  unfold State.startSpreader
  cases h : (s.lineEntry .sp).enabled <;> simp [State.enterSearch, State.onPort, State.setPort, State.port]

theorem cabEntry_isCab (k : SlotIx) : isCabEntry (cabEntry k) = true := by simp [isCabEntry, cabEntry]

theorem profileEntry_not_cab (p : ProfileIx) (k : SlotIx) : isCabEntry (profileEntry p k) = false := by
  have := p.isLt
  have := k.isLt
  exact decide_eq_false (by simp only [profileEntry]; omega)

/-- R85: a slot that had been idle, at the start of its set. -/
theorem startedSlot_idle (m : MasterSlot) : startedSlot m .idle =
    ⟨if m.enabled then (if m.direction = .inbound then .awaiting else .live) else .disabled, 0, false, 0⟩ := by
  unfold startedSlot MasterRt.idle
  cases m.enabled <;> cases m.direction <;> rfl

/-- The part at the entry into RUN, in one frame: what starts depends on the LINE entries. -/
theorem State.toRun_entry (s : State) : RunEntry s s.toRun := by
  obtain ⟨b, hb⟩ : ∃ b, b = s.runBase.startCab := ⟨_, rfl⟩
  have ht : s.toRun = b.startSpreader := by rw [hb]; rfl
  have hbase : ∃ rt cp, b = { s.runBase with masterRt := rt, cp := cp } ∧
      (∀ p k, rt.get (profileEntry p k) = ⟨.disabled, 0, false, 0⟩) ∧
      (∀ k, rt.get (cabEntry k) = ⟨if (s.lineEntry .cp).enabled && (s.slotRec (cabEntry k)).enabled then
        (if (s.slotRec (cabEntry k)).direction = .inbound then .awaiting else .live) else .disabled, 0, false, 0⟩) ∧
      ((s.lineEntry .cp).enabled = true → cp = { s.cp with
        state := .cycling, cycleTimer := some (s.lineEntry .cp).cyclePeriod, overdue := false, overrun := false, queue := []
        detachTimer := none, cycle := cp.cycle, turn := cp.turn
        link := { s.cp.link with rate := (s.lineEntry .cp).rate, phase := .ignoring } } ∧
        (∀ k kind, b.nextVisit .cp 0 = some (k, kind) → cp.turn = .due kind k ∧ cp.cycle = some (k.val + 1)) ∧
        (b.nextVisit .cp 0 = none → cp.turn = .none ∧ cp.cycle = none)) ∧
      ((s.lineEntry .cp).enabled = false →
        cp = { s.cp.stopped with link := { s.cp.stopped.link with rate := (s.lineEntry .cp).rate } }) := by
    cases h : (s.lineEntry .cp).enabled with
    | false =>
      refine ⟨s.runBase.masterRt, s.runBase.cp, ?_, ?_, ?_, by simp, fun _ => rfl⟩
      · have hn : ¬(s.runBase.lineEntry .cp).enabled = true := by
          rw [show s.runBase.lineEntry .cp = s.lineEntry .cp from rfl, h]; exact Bool.false_ne_true
        rw [hb, State.startCab, if_neg hn]
      · intro p k; simp [State.runBase, MasterRt.idle]
      · intro k; simp [State.runBase, MasterRt.idle]
    | true =>
      obtain ⟨cycle, turn, he, hk, hn⟩ := State.startCab_eq s.runBase h
      rw [← hb] at hk hn
      refine ⟨_, _, hb.trans he, ?_, ?_, fun _ => ⟨rfl, hk, hn⟩, by simp⟩
      · intro p k; simp [profileEntry_not_cab, State.runBase, MasterRt.idle]
      · intro k
        rw [State.onSlots_masterRt, if_pos (cabEntry_isCab k)]
        exact (congrArg _ (Tab.get_fill _ _)).trans ((startedSlot_idle _).trans (by simp; rfl))
  obtain ⟨rt, cp, he, h1, h2, h3, h4⟩ := hbase
  have hl : ∀ l, b.lineEntry l = s.lineEntry l := by intro l; rw [he]; rfl
  have key := ht.trans b.startSpreader_eq
  simp only [hl] at key
  have hv : s.toRun.nextVisit .cp 0 = b.nextVisit .cp 0 := by
    rw [key]; exact State.nextVisit_congr rfl rfl rfl rfl _ _
  subst he
  refine ⟨?_, ?_, ?_, ?_, ?_, ?_, ?_, ?_, ?_, ?_, ?_, ?_, ?_, ?_, ?_, ?_, ?_, ?_⟩
  · intro i hi; rw [key]; exact (s.clearImage_image i).trans (if_pos hi)
  · intro i hi; rw [key]; exact (s.clearImage_image i).trans (by rw [hi]; rfl)
  · intro g; rw [key]; simp [State.runBase, GateRt.closed]
  · intro d; rw [key]; simp [State.runBase, FeedRt.fresh]
  · intro w; rw [key]; simp [State.runBase]
  · intro c; rw [key]; simp [State.runBase, TrolleyIO.atRest, ChannelRt.fresh]
  · intro i; rw [key]; simp [State.runBase, TrolleyIO.atRest, InputRt.fresh]
  · rw [key]; simp [State.runBase, TrolleyIO.atRest]
  · intro p k; rw [key]; exact h1 p k
  · intro k; rw [key]; exact h2 k
  · intro k; rw [key]
    simp only [State.runBase, Tab.get_mapIdx, startedFestoon]
    cases (s.tables.festoonSlots.get k).enabled <;> cases (s.tables.festoonSlots.get k).direction <;> rfl
  · intro h; rw [key]; exact (h3 h).1
  · intro h k kind hk; rw [hv] at hk; rw [key]; exact (h3 h).2.1 k kind hk
  · intro h hk; rw [hv] at hk; rw [key]; exact (h3 h).2.2 hk
  · intro h; rw [key]; exact h4 h
  · rw [key]; simp only [State.runBase, MasterPort.stopped, MasterPort.leave]; split <;> rfl
  · rw [key]; exact ⟨rfl, rfl⟩
  · rw [key]; simp [State.runBase]

/-! ### The warm restart and the beginning of a festoon reception -/

/-- R163: the warm restart enters CONFIG, and RUN again exactly when the tables are validated. -/
theorem State.warmRestart_entry (s : State) :
    ConfigEntry s.restartCounters s.restartCounters.toConfig ∧
    (s.validated = false → s.warmRestart = s.restartCounters.toConfig) ∧
    (s.validated = true → RunEntry s.restartCounters.toConfig s.warmRestart) := by
  refine ⟨State.toConfig_entry _, fun h => ?_, fun h => ?_⟩
  · have hv : s.restartCounters.toConfig.validated = false := h
    simp [State.warmRestart, hv]
  · have hv : s.restartCounters.toConfig.validated = true := h
    have e : s.warmRestart = s.restartCounters.toConfig.toRun := by simp [State.warmRestart, hv]
    rw [e]; exact State.toRun_entry _

/-- R127: a reception under way has begun before. -/
theorem State.beginReception_of_not_rested {s : State} (h : s.fp.link.phase ≠ .rested) : s.beginReception = s := by
  unfold State.beginReception; split
  · rename_i hp; exact absurd hp h
  all_goals rfl

/-- R127: a reception that begins with no restart pending discards what is due. -/
theorem State.beginReception_of_rested {s : State} (h : s.fp.link.phase = .rested) (hr : s.fp.restartPending = false) :
    s.beginReception = { s with fp := { s.fp with due := none, link := { s.fp.link with phase := .receiving } } } := by
  simp [State.beginReception, h, hr, State.setPhase, State.setLink, State.link, State.onFp]

/-- R162: a pending restart takes effect as the reception begins. -/
theorem State.beginReception_of_restart {s : State} (h : s.fp.link.phase = .rested) (hr : s.fp.restartPending = true) :
    s.beginReception = (State.warmRestart { s with fp := { s.fp with due := none } }).setPhase .fp .receiving := by
  simp [State.beginReception, h, hr, State.onFp]

end Sys2Proof.Machine
end

