-- ==== Sys2Proof/Laws/Operands.lean ====
section
/-! SUPPORT. The small lemmas of the bytes of a record: numbers, indices and little-endian fields. -/

namespace Sys2Proof.Machine

@[simp] theorem finOf_val (n : Nat) (k : Fin n) : finOf n k.val = some k := by simp [finOf]

/-- An index within its range is taken, any other refused. -/
theorem finOf_isSome (n k : Nat) : (finOf n k).isSome = true ↔ k < n := by
  unfold finOf
  split <;> simp_all

/-- A signed number as two bytes: its remainder and its quotient by 256. -/
theorem leSigned_eq (v : Int) : leSigned v = [BitVec.ofInt 8 v, BitVec.ofInt 8 (v / 256)] := by
  have h : (BitVec.ofInt 16 v).toNat = (v % 65536).toNat := by simp [BitVec.toNat_ofInt]
  simp only [leSigned, leBytes, h]
  congr 1
  · apply BitVec.eq_of_toNat_eq
    simp [BitVec.toNat_ofInt]
    omega
  · congr 1
    apply BitVec.eq_of_toNat_eq
    simp [BitVec.toNat_ofInt]
    omega

/-- A timing field is stored at the nearer end of its range, and the flag says that it was outside (R156). -/
theorem clampNat_eq {lo hi : Nat} (h : lo ≤ hi) (v : Nat) :
    clampNat lo hi v = (if v < lo then lo else if hi < v then hi else v, decide (v < lo ∨ hi < v)) := by
  unfold clampNat
  refine Prod.ext ?_ (by simp)
  simp only
  split
  · omega
  · split <;> omega

end Sys2Proof.Machine
end

