-- ==== Sys2Proof/Laws/Placements.lean ====
section
/-! SUPPORT. What applying a payload and building one can do. -/

namespace Sys2Proof.Machine

/-! ### Numbers -/

/-- R37: a conversion whose limits are in order answers within them. -/
theorem Conversion.apply_mem {c : Conversion} (h : c.lo ≤ c.hi) (r : Int) : c.lo ≤ (c.apply r).1 ∧ (c.apply r).1 ≤ c.hi :=
  clampInt_mem h _

/-- R10, R28: what an IN placement writes lies in the signal range, where its conversion's limits do. -/
theorem Tables.inValue_range (t : Tables) (p : Placement) (payload : Nat)
    (h : ∀ c, p.conversion = some c → signalRange (t.conversions.get c).lo ∧ signalRange (t.conversions.get c).hi ∧
      (t.conversions.get c).lo ≤ (t.conversions.get c).hi) : signalRange (t.inValue p payload).1 := by
  unfold Tables.inValue
  cases hc : p.conversion with
  | none => exact clampInt_mem (by norm_num) _
  | some c =>
    obtain ⟨⟨h1, -⟩, ⟨-, h2⟩, h3⟩ := h c hc
    obtain ⟨h4, h5⟩ := Conversion.apply_mem h3 (fieldNumber p.signed p.width (extractField payload p.offset p.width))
    exact ⟨h1.trans h4, h5.trans h2⟩

/-- R33: a number fitted to a field lies in the field's range. -/
theorem fitNumber_mem (signed : Bool) {width : Nat} (v : Int) :
    (signed = true → -(2 ^ (width - 1)) ≤ fitNumber signed width v ∧ fitNumber signed width v ≤ 2 ^ (width - 1) - 1) ∧
    (signed = false → 0 ≤ fitNumber signed width v ∧ fitNumber signed width v ≤ 2 ^ width - 1) := by
  have h1 : (1 : Int) ≤ 2 ^ (width - 1) := by exact_mod_cast Nat.one_le_two_pow
  have h2 : (1 : Int) ≤ 2 ^ width := by exact_mod_cast Nat.one_le_two_pow
  refine ⟨fun h => ?_, fun h => ?_⟩
  · subst h; exact clampInt_mem (by omega) v
  · subst h; exact clampInt_mem (by omega) v

/-! ### Applying -/

/-- One placement changes the image alone, and there only the record it names. -/
theorem Work.applyOne_frame (w : Work) (payload len : Nat) (p : Placement) :
    (w.applyOne payload len p).st = { w.st with image := (w.applyOne payload len p).st.image } ∧
    (∀ i, i ≠ p.addr.base → (w.applyOne payload len p).st.image.get i = w.st.image.get i) ∧
    (∀ i, (w.applyOne payload len p).touched i = (w.touched i || decide (i = p.addr.base))) := by
  unfold Work.applyOne
  split
  · exact ⟨rfl, fun i hi => by simp [Work.writeField, hi], fun i => rfl⟩
  · exact ⟨rfl, fun i hi => by simp [hi], fun i => rfl⟩

/-- A list of IN placements changes the image alone, and there only the records it names. -/
theorem Work.foldl_applyOne_frame (payload len : Nat) (ps : List Placement) (w : Work) :
    (ps.foldl (Work.applyOne payload len) w).st = { w.st with image := (ps.foldl (Work.applyOne payload len) w).st.image } ∧
    (∀ i, (∀ p ∈ ps, i ≠ p.addr.base) → (ps.foldl (Work.applyOne payload len) w).st.image.get i = w.st.image.get i) ∧
    (∀ i, (ps.foldl (Work.applyOne payload len) w).touched i = (w.touched i || ps.any fun p => decide (i = p.addr.base))) := by
  induction ps generalizing w with
  | nil => exact ⟨rfl, fun _ _ => rfl, fun i => by simp⟩
  | cons p ps ih =>
    obtain ⟨h1, h2, h3⟩ := ih (w.applyOne payload len p)
    obtain ⟨k1, k2, k3⟩ := w.applyOne_frame payload len p
    refine ⟨?_, fun i hi => ?_, fun i => ?_⟩
    · rw [List.foldl_cons, h1, k1]
    · rw [List.foldl_cons, h2 i fun q hq => hi q (List.mem_cons_of_mem _ hq), k2 i (hi p List.mem_cons_self)]
    · rw [List.foldl_cons, h3, k3, List.any_cons, Bool.or_assoc]

/-- R27: applying a payload changes the image alone. -/
theorem Work.applyRun_frame (w : Work) (run : List Placement) (bytes : List Byte) :
    (w.applyRun run bytes).st = { w.st with image := (w.applyRun run bytes).st.image } :=
  (Work.foldl_applyOne_frame _ _ _ w).1

/-! ### Building -/

/-- R30: a built payload has its slot's declared length. -/
@[simp] theorem State.build_length (s : State) (run : List Placement) (len : Nat) : (s.build run len).length = len := by
  simp [State.build]

/-- What is built depends on the image, the gates, the area plan and the conversions alone. -/
theorem State.read_congr {s t : State} (hi : s.image = t.image) (ht : s.tables = t.tables) (a : SigAddr) : s.read a = t.read a := by
  have hv : ∀ i, s.view i = t.view i := fun i => by simp only [State.view, hi]
  have hx : s.addressIndex a = t.addressIndex a := by
    unfold State.addressIndex
    split <;> simp [hv]
  have hr : s.resolve a = t.resolve a := by simp only [State.resolve, hx, ht]
  simp only [State.read, hr, hv]

theorem State.buildNat_congr {s t : State} (hi : s.image = t.image) (ht : s.tables = t.tables) (hg : s.gateRt = t.gateRt)
    (run : List Placement) : s.buildNat run = t.buildNat run := by
  have hf : ∀ p, s.fieldOf p = t.fieldOf p := by
    intro p
    have hp : s.gatePasses p = t.gatePasses p := by simp only [State.gatePasses, hg]
    simp only [State.fieldOf, State.read_congr hi ht, hp, ht]
  simp only [State.buildNat, hf]

end Sys2Proof.Machine
end

