-- ==== Sys2Proof/Laws/Validate.lean ====
section
/-! SUPPORT. What the slots that ENTER_RUN examines are, in which order, and which placements they name. -/

namespace Sys2Proof.Machine

/-- An owner's area holds an index exactly when an enabled entry of the owner does. -/
theorem Tables.ownedBy_assigns (t : Tables) (o : Owner) (i : SigIx) : t.ownedBy o i = true ↔ t.Assigns o i := by
  rw [Tables.ownedBy_iff]
  exact exists_congr fun k => ⟨fun ⟨a, b, c, d⟩ => ⟨a, d, b, c⟩, fun ⟨a, d, b, c⟩ => ⟨a, b, c, d⟩⟩

/-- An index is assigned exactly when some owner's enabled entry holds it. -/
theorem Tables.assigned_assigns (t : Tables) (i : SigIx) : t.assigned i = true ↔ ∃ o, t.Assigns o i := by
  rw [Tables.assigned_iff]
  exact ⟨fun ⟨k, a, b⟩ => ⟨_, k, a, rfl, b⟩, fun ⟨_, k, a, _, b⟩ => ⟨k, a, b⟩⟩

/-- A profile's set is examined exactly when the profile is enabled; the cab set always is. -/
theorem Tables.setExamined_iff (t : Tables) (e : MasterIx) :
    t.setExamined e = true ↔ ∀ p : ProfileIx, p.val = e.val / 16 → (t.profiles.get p).enabled = true := by
  unfold Tables.setExamined
  rw [Tab.get?_eq]
  by_cases h : e.val / 16 < 4
  · simp only [h, dif_pos]
    exact ⟨fun h' p hp => by rwa [show p = ⟨e.val / 16, h⟩ from Fin.ext hp], fun h' => h' _ rfl⟩
  · simp only [h, dif_neg, not_false_eq_true, true_iff]
    exact fun p hp => absurd p.2 (by omega)

/-- Passes 3 and 4 take exactly the slots of `Tables.Examines`. -/
theorem Tables.mem_examinedSlots (t : Tables) (x : Examined) : x ∈ t.examinedSlots ↔ t.Examines x := by
  unfold Tables.examinedSlots Tables.examinedMaster Tables.examinedFestoon Tables.Examines
  simp only [List.mem_append, List.mem_filterMap]
  constructor
  · rintro (⟨e, -, h⟩ | ⟨k, -, h⟩)
    · simp only [Option.ite_none_right_eq_some, Bool.and_eq_true, Option.some.injEq] at h
      obtain ⟨⟨he, hs⟩, rfl⟩ := h
      by_cases h4 : e.val < 64
      · have hent : profileEntry ⟨e.val / 16, by omega⟩ ⟨e.val % 16, by omega⟩ = e := by ext; simp [profileEntry]; omega
        refine .inl ⟨⟨e.val / 16, by omega⟩, ⟨e.val % 16, by omega⟩, (t.setExamined_iff e).1 hs _ rfl, by rw [hent]; exact he, ?_⟩
        simp [setOfEntry, h4, hent]
        omega
      · have hent : cabEntry ⟨e.val - 64, by omega⟩ = e := by ext; simp [cabEntry]; omega
        refine .inr (.inl ⟨⟨e.val - 64, by omega⟩, by rw [hent]; exact he, ?_⟩)
        simp [setOfEntry, h4, hent]
        omega
    · simp only [Option.ite_none_right_eq_some, Option.some.injEq] at h
      obtain ⟨he, rfl⟩ := h
      exact .inr (.inr ⟨k, he, rfl⟩)
  · rintro (⟨p, k, hp, hm, rfl⟩ | ⟨k, hm, rfl⟩ | ⟨k, hm, rfl⟩)
    · refine .inl ⟨profileEntry p k, List.mem_finRange _, ?_⟩
      have hs : t.setExamined (profileEntry p k) = true := (t.setExamined_iff _).2 fun q hq => by
        rwa [show q = p by ext; simp [profileEntry] at hq; omega]
      rw [if_pos (by simp only [hm, hs]; rfl)]
      simp [setOfEntry, profileEntry, show p.val * 16 + k.val < 64 by omega, show (p.val * 16 + k.val) / 16 = p.val by omega]
    · refine .inl ⟨cabEntry k, List.mem_finRange _, ?_⟩
      have hs : t.setExamined (cabEntry k) = true := (t.setExamined_iff _).2 fun q hq => by simp [cabEntry] at hq; omega
      rw [if_pos (by simp only [hm, hs]; rfl)]
      simp [setOfEntry, cabEntry]
    · refine .inr ⟨k, List.mem_finRange _, ?_⟩
      simp [hm]

/-- Passes 5 to 12 take exactly the slots of `Tables.Places`. -/
theorem Tables.mem_examinedAll (t : Tables) (x : Examined) : x ∈ t.examinedAll ↔ t.Places x := by
  simp [Tables.examinedAll, t.mem_examinedSlots, Tables.Places, Tables.examinedL]

/-- The placements of a slot are those it names at the positions of its run. -/
theorem Tables.mem_placed (t : Tables) (x : Examined) (p : Placement) : p ∈ t.placed x ↔ ∃ j, t.Names x j p := by
  unfold Tables.placed Tables.run Tables.Names
  simp only [List.mem_filterMap, List.mem_range, Tab.get?_eq]
  constructor
  · rintro ⟨j, hj, h⟩
    split at h
    · rename_i hl
      exact ⟨j, hj, ⟨_, hl⟩, rfl, by simpa using h⟩
    · simp at h
  · rintro ⟨j, hj, i, hi, rfl⟩
    refine ⟨j, hj, ?_⟩
    rw [dif_pos (by omega)]
    congr 2
    exact Fin.ext hi.symm

/-- Every examined slot of a set stands in table SLOT. -/
theorem Tables.Examines.table_eq {t : Tables} {x : Examined} (h : t.Examines x) : x.table = .slot := by
  rcases h with ⟨_, _, _, _, rfl⟩ | ⟨_, _, rfl⟩ | ⟨_, _, rfl⟩ <;> rfl

/-- One entry at most from each index, in the entries from `first` on, keeps the order of R159. -/
theorem pairwise_filterMap_before {n : Nat} (f : Fin n → Option Examined) (table : TableId) (first : Nat)
    (h : ∀ k x, f k = some x → x.table = table ∧ x.entry = first + k.val) : ((indices n).filterMap f).Pairwise Examined.before := by
  rw [List.pairwise_filterMap]
  refine (List.pairwise_lt_finRange n).imp ?_
  intro i j hij x hx y hy
  obtain ⟨a, b⟩ := h i x hx
  obtain ⟨c, d⟩ := h j y hy
  exact .inr ⟨a.trans c.symm, by omega⟩

/-- The slots of passes 3 and 4 are taken in the order of R159. -/
theorem Tables.examinedSlots_sorted (t : Tables) : t.examinedSlots.Pairwise Examined.before := by
  unfold Tables.examinedSlots
  rw [List.pairwise_append]
  refine ⟨pairwise_filterMap_before _ .slot 0 ?_, pairwise_filterMap_before _ .slot 80 ?_, fun a ha b hb => ?_⟩
  · intro k x h
    simp only [Option.ite_none_right_eq_some, Option.some.injEq] at h
    obtain ⟨_, rfl⟩ := h
    simp
  · intro k x h
    simp only [Option.ite_none_right_eq_some, Option.some.injEq] at h
    obtain ⟨_, rfl⟩ := h
    simp
  · simp only [Tables.examinedMaster, Tables.examinedFestoon, List.mem_filterMap, Option.ite_none_right_eq_some, Option.some.injEq] at ha hb
    obtain ⟨e, -, -, rfl⟩ := ha
    obtain ⟨k, -, -, rfl⟩ := hb
    exact .inr ⟨rfl, by simp; omega⟩

/-- The slots of passes 5 to 12 are taken in the order of R159. -/
theorem Tables.examinedAll_sorted (t : Tables) : t.examinedAll.Pairwise Examined.before := by
  unfold Tables.examinedAll
  rw [List.pairwise_append]
  refine ⟨t.examinedSlots_sorted, ?_, fun a ha b hb => ?_⟩
  · simp [Tables.examinedL, Examined.before, entryBefore]
  · simp only [Tables.examinedL, List.mem_cons, List.not_mem_nil, or_false] at hb
    have hb : b.table = .trolley := by rcases hb with rfl | rfl | rfl <;> rfl
    refine .inl ?_
    rw [((t.mem_examinedSlots a).1 ha).table_eq, hb]
    decide

end Sys2Proof.Machine
end

