-- ==== Sys2Proof/Tests/Slice0.lean ====
section
/-! SUPPORT. The model's own tests: ill-formed commands that the check refuses, the manual's worked values, one step of each command, and
for every statement with hypotheses a concrete state and operands that meet them. -/

namespace Sys2Proof.Tests
open Sys2Proof Sys2Proof.Machine

set_option Elab.async false

/-! ### Well-formedness: each check refuses an ill-formed command -/

/-- A frame of a kind and a payload, to node 5 with tag 3. -/
def frame (k : Kind) (payload : List Byte) : Frame := ⟨5, k, 3, false, false, payload⟩

/-- One character that is no lead byte. -/
def noise : List LineChar := [⟨0, true⟩]

theorem test_wf_frameError_good : Instr.wellFormed (.frameError .sp (frameChars (frame .poll [])) false) = false := by decide +kernel
theorem test_wf_frameError_bad : Instr.wellFormed (.frameError .sp noise false) = true := by decide
theorem test_wf_frameError_none : Instr.wellFormed (.frameError .sp [] false) = false := by decide
theorem test_wf_stray_long : Instr.wellFormed (.strayFrame .fp (frame .poll [0]) false) = false := by decide
theorem test_wf_response_kind : Instr.wellFormed (.masterResponseAccepted .sp (frame .poll [])) = false := by decide
theorem test_wf_response_long : Instr.wellFormed (.masterResponseAccepted .sp (frame .data (List.replicate 17 0))) = false := by decide
theorem test_wf_reply_kind : Instr.wellFormed (.hailReplyTaken (frame .data [0, 0, 0, 0, 0, 0])) = false := by decide
theorem test_wf_reply_short : Instr.wellFormed (.hailReplyTaken (frame .hailReply [0, 0, 0, 0, 0])) = false := by decide
theorem test_wf_data_kind : Instr.wellFormed (.festoonDataAccepted (frame .mgmt [])) = false := by decide
theorem test_wf_data_long : Instr.wellFormed (.festoonDataAccepted (frame .data (List.replicate 17 0))) = false := by decide
theorem test_wf_poll_kind : Instr.wellFormed (.festoonPoll (frame .data [])) = false := by decide
theorem test_wf_poll_long : Instr.wellFormed (.festoonPoll (frame .poll [1])) = false := by decide
theorem test_wf_unknown_known : Instr.wellFormed (.unknownCommand 0 [13]) = false := by decide
theorem test_wf_unknown_long : Instr.wellFormed (.unknownCommand 0 (List.replicate 49 0)) = false := by decide
theorem test_wf_unknown_empty : Instr.wellFormed (.unknownCommand 0 []) = true := by decide
theorem test_wf_request_long : Instr.wellFormed (.writeTable 0 (List.replicate 48 0)) = false := by decide
theorem test_wf_request_longest : Instr.wellFormed (.writeTable 0 (List.replicate 47 0)) = true := by decide

/-! ### No word of the table spells a command -/

theorem test_no_word_spells_a_command : decodeTableWord 32 0xFFFFFFFF = none := rfl
theorem test_withFetchWord_keeps : State.reset.withFetchWord 8 1 = State.reset := rfl

/-! ### Worked values of the manual -/

/-- R68: the CRC of the bytes 0x31 to 0x39 is 0x29B1. -/
theorem test_crc_check_value : crc [0x31, 0x32, 0x33, 0x34, 0x35, 0x36, 0x37, 0x38, 0x39] = 0x29B1 := by decide +kernel
/-- R68: the POLL to node 5 for tag 3, byte by byte. -/
theorem test_poll_bytes : frameBytes (frame .poll []) = [0xC3, 0x25, 0x03, 0x00, 0xF4, 0xF9] := by decide +kernel
/-- R69: the same six characters are judged to be that POLL. -/
theorem test_poll_judged :
    (match judge [⟨0xC3, true⟩, ⟨0x25, true⟩, ⟨0x03, true⟩, ⟨0x00, true⟩, ⟨0xF4, true⟩, ⟨0xF9, true⟩] with
      | .ok f => f == frame .poll []
      | .error _ => false) = true := by decide +kernel
/-- R36: the table of rounded quotients. -/
theorem test_rounding : [roundShift 5 1, roundShift (-5) 1, roundShift (-7) 1, roundShift (-6) 2, roundShift (-7) 2] =
    [3, -2, -3, -1, -2] := by decide
/-- Chapter 02, a field across three bytes: 3491, and read as SIGNED −605. -/
theorem test_field_across_bytes : extractField (leNat [0, 0x60, 0xB4, 0x01]) 13 12 = 3491 ∧ fieldNumber true 12 3491 = -605 ∧
    fieldPattern 12 (-605) = 3491 := by decide
/-- R119: the strap values 0, 9 and 31. -/
theorem test_strap : [strapAddress 0, strapAddress 9, strapAddress 31] = [1, 9, 30] := by decide
/-- Chapter 12: the budgets of the tandem rig's slots are 328, 208, 908 and 708 µs. -/
theorem test_budgets : [slotBudget 2 ⟨true, .outbound, 0, 1, 8, 0, 0, 0, 0, false, none⟩,
    slotBudget 2 ⟨true, .outbound, 0, 1, 2, 0, 0, 0, 0, false, none⟩, slotBudget 2 ⟨true, .inbound, 0, 1, 6, 50, 3, 0, 0, false, none⟩,
    slotBudget 2 ⟨true, .inbound, 0, 1, 6, 30, 3, 0, 0, false, none⟩] = [328, 208, 908, 708] := by decide
/-- Chapter 12: an error at score 88 makes 96 and DEGRADED with its event; one at 240 overflows. -/
theorem test_score_96 : let s := State.scoreError .sp (State.reset.setLink .sp { State.reset.sp.link with score := 88 })
    s.sp.link.health = .degraded ∧ s.events.map (·.event) = [.lineDegraded .sp 96] := by decide
/-- Chapter 12: readings 40, 35 and 30 with nL 3 take a monitor through DIPPING 1 and 2 to LOW. -/
theorem test_feed_falls : let e : FeedEntry := ⟨true, 2600, 2900, 3, 4⟩
    classOf e ⟨40, .delivered⟩ = .below ∧ feedStep e .below .good 0 = (.dipping, 1) ∧ feedStep e .below .dipping 1 = (.dipping, 2) ∧
    feedStep e .below .dipping 2 = (.low, 0) := by decide
/-- Chapter 03: a gate with k 3 rises at its third true sweep, and a latching gate locks at the first false one. -/
theorem test_gate_rises_and_locks : let c : Gate := ⟨true, 1, 3, false, true, none, 0, none⟩
    gateStep c true false .closed 0 = (.rising, 1) ∧ gateStep c true false .rising 1 = (.rising, 2) ∧
    gateStep c true false .rising 2 = (.opened, 3) ∧ gateStep c false false .opened 3 = (.locked, 0) ∧
    gateStep c true true .locked 0 = (.closed, 0) := by decide
/-- R76, R6: the AREA record of the worked plan's first entry is accepted as written. -/
theorem test_area_record : areaOf? [1, 64, 0, 95, 0, 0, 1] = some ⟨true, 64, 95, .spreader, true⟩ := by decide
/-- R156: a sweep period of 0 and of 21 is clamped to 1 and to 20. -/
theorem test_sweep_period_clamped : timingOf? 1 20 [0] = some (1, true) ∧ timingOf? 1 20 [21] = some (20, true) ∧
    timingOf? 1 20 [20] = some (20, false) := by decide
/-- Chapter 12, step 9: with FEED 0 enabled and channel 15 off, validation fails with FEED, entry 0, FEED_CHANNEL. -/
theorem test_validate_feed : Tables.validate { Tables.powerOn with feeds := Tables.powerOn.feeds.set 0 ⟨true, 2600, 2900, 3, 4⟩ } =
    some ⟨.feed, 0, .feedChannel⟩ := by decide

/-! ### States for the tests -/

/-- An OUT slot with tag 1 for node 5. -/
def outSlot : MasterSlot := ⟨true, .outbound, 1, 5, 1, 0, 0, 0, 1, false, none⟩

/-- An IN slot with tag 3 for node 5, window 200 µs, miss limit `n`. -/
def inSlot (n : Nat) : MasterSlot := ⟨true, .inbound, 3, 5, 2, 20, n, 1, 1, false, none⟩

/-- A ONCE slot with tag 4 for node 6. -/
def onceSlot : MasterSlot := ⟨true, .outbound, 4, 6, 1, 0, 0, 0, 1, true, none⟩

/-- Tables that pass every check of ENTER_RUN: one profile (slots 0 OUT, 1 IN with limit 2, 2 ONCE), the same cab slots with limit 1, one
festoon slot each way, an area of every owner, and one gate. -/
def tables : Tables :=
  { Tables.powerOn with
    areas := (((((Tables.powerOn.areas.set 0 ⟨true, 64, 95, .spreader, true⟩).set 1 ⟨true, 256, 287, .panel, true⟩).set 2
      ⟨true, 0, 31, .trolley, false⟩).set 3 ⟨true, 128, 159, .cab, false⟩).set 4 ⟨true, 192, 223, .festoon, false⟩).set 5
      ⟨true, 320, 351, .gate, false⟩
    lines := .fill 3 ⟨true, .kbit500, 50, 100⟩
    profiles := Tables.powerOn.profiles.set 0 ⟨true, 0x2140⟩
    masterSlots := (((((Tables.powerOn.masterSlots.set 0 outSlot).set 1 (inSlot 2)).set 2 onceSlot).set 64 outSlot).set 65 { inSlot 1 with first := 2 }).set 66
      onceSlot
    festoonSlots := (Tables.powerOn.festoonSlots.set 0 ⟨true, .inbound, 3, 1, 3, 1, 50, none⟩).set 1 ⟨true, .outbound, 4, 1, 0, 1, 0, none⟩
    placements := (((Tables.powerOn.placements.set 0 ⟨.outbound, 0, 8, false, ⟨64, none, .x1⟩, none, none, 0x0F⟩).set 1
      ⟨.inbound, 0, 8, false, ⟨65, none, .x1⟩, none, none, 0⟩).set 2 ⟨.inbound, 0, 8, false, ⟨128, none, .x1⟩, none, none, 0⟩).set 3
      ⟨.inbound, 0, 8, false, ⟨192, none, .x1⟩, none, none, 0⟩
    gates := Tables.powerOn.gates.set 0 ⟨true, 1, 1, false, false, none, 320, none⟩
    terms := Tables.powerOn.terms.set 0 ⟨.zero, .always, false, 0⟩
    channels := .fill 16 ⟨true, true⟩
    feeds := .fill 2 ⟨true, 2000, 3000, 1, 1⟩ }

/-- The part in CONFIG with these tables. -/
def config : State := { State.reset with tables := tables }

/-- The part in RUN with these tables, both master ports OFF. -/
def running : State := { config with operating := .run, validated := true, sweepTimer := some 2 }

/-- A runtime with a status. -/
def rt (st : SlotStatus) : MasterRt := ⟨st, 0, false, 0⟩

/-- The part in RUN with profile 0 attached and both master ports CYCLING. -/
def cycling : State :=
  { running with
    attached := some 0
    sp := { running.sp with state := .cycling, cycleTimer := some 50 }
    cp := { running.cp with state := .cycling, cycleTimer := some 50 }
    masterRt := (((((running.masterRt.set 0 (rt .live)).set 1 (rt .awaiting)).set 2 (rt .live)).set 64 (rt .live)).set 65 (rt .live)).set 66
      (rt .live) }

/-- The Spreader Port in a turn. -/
def inTurn (t : Turn) (s : State) : State := { s with sp := { s.sp with turn := t } }

/-- The Spreader Port in SEARCH, at a point of the search. -/
def searching (h : HailPhase) : State :=
  { running with sp := { running.sp with state := .search }, hail := h, searchTimer := if h = .firstDue then none else some 100 }

/-- The festoon line's phase. -/
def onLine (p : LinePhase) (s : State) : State := { s with fp := { s.fp with link := { s.fp.link with phase := p } } }

/-- A condition on the next state of an answer. -/
def gives (o : Host.Outcome State Fault Refusal) (p : State → Bool) : Bool :=
  match o with
  | .next t => p t
  | .fault _ | .refused _ => false

/-! ### One step of each command -/

theorem test_powerOn : gives (exec (.powerOn 31) cycling) (fun t => t.fp.address == 30 && t.sp.state == .off) = true := by decide
theorem test_resetInputAssert : gives (exec .resetInputAssert (inTurn (.poll 1) cycling)) (fun t => t.resetHeld && t.sp.turn == .none) =
    true := by decide
theorem test_resetInputRelease : gives (exec (.resetInputRelease 9) { cycling with resetHeld := true })
    (fun t => !t.resetHeld && t.fp.address == 9) = true := by decide
theorem test_held_takes_nothing : gives (exec .ageTimerExpiry { config with resetHeld := true }) (fun t => t.timestamp == 0) = true := by
  decide
theorem test_ageTimer_saturates_and_wraps : gives (exec .ageTimerExpiry { config with timestamp := 0xFFFF })
    (fun t => (t.image.get 0).age == 65535 && t.timestamp == 0) = true := by decide
theorem test_status : gives (exec (.status 2 []) running) (fun t => match t.fp.due with
    | some (.reply tag p _) => tag == 2 && p.take 4 == [1, 0, 1, 1] && p.drop 15 == [0x16, 0x02, 3]
    | _ => false) = true := by decide
theorem test_enterConfig : gives (exec (.enterConfig 0 []) cycling) (fun t => t.operating == .config && t.cp.state == .off) = true := by
  decide
theorem test_enterRun : gives (exec (.enterRun 0 []) State.reset) (fun t => t.operating == .run && t.validated && t.sp.state == .off) =
    true := by decide
theorem test_restart_pends : gives (exec (.restart 0 []) running) (fun t => t.fp.restartPending && t.operating == .run) = true := by
  decide
theorem test_warmRestart : gives (exec .warmRestart { onLine (.sending (frame .mgmtReply []) .kbit500) running with
    fp := { (onLine (.sending (frame .mgmtReply []) .kbit500) running).fp with restartPending := true }, timestamp := 5 })
    (fun t => t.timestamp == 0 && t.operating == .run && t.sp.state == .search && t.cp.state == .cycling) = true := by decide
theorem test_readTable : gives (exec (.readTable 0 [1, 0, 0, 1]) config) (fun t => match t.fp.due with
    | some (.reply _ p _) => p == [0x05, 0, 1, 0, 0, 1, 1, 64, 0, 95, 0, 0, 1]
    | _ => false) = true := by decide
theorem test_writeTable_refused_in_run : gives (exec (.writeTable 0 [3, 0, 0, 0, 1, 2]) running)
    (fun t => t.tables == tables && (match t.fp.due with | some (.reply _ p _) => p == [0x06, 2] | _ => false)) = true := by decide +kernel
theorem test_writeTable_profile : gives (exec (.writeTable 0 [3, 1, 0, 1, 0x40, 0x22]) config)
    (fun t => t.tables.profiles.get 1 == ⟨true, 0x2240⟩ && !t.validated) = true := by decide
theorem test_readSignals : gives (exec (.readSignals 0 [255, 1, 2]) config) (fun t => match t.fp.due with
    | some (.reply _ p _) => p == [0x07, 1, 255, 1, 1, 0, 0, 6, 255, 255]
    | _ => false) = true := by decide +kernel
theorem test_writeSignal_panel : gives (exec (.writeSignal 0 [0, 1, 0xFF, 0xFF]) config)
    (fun t => t.image.get 256 == ⟨-1, .good, 0, none⟩) = true := by decide
theorem test_force : gives (exec (.force 0 [64, 0, 5, 0]) running) (fun t => t.image.get 64 == ⟨0, .absent, 65535, some 5⟩) = true := by
  decide +kernel
theorem test_release : gives (exec (.release 0 [64, 0]) { running with image := running.image.set 64 ⟨0, .absent, 65535, some 5⟩ })
    (fun t => (t.image.get 64).force == none) = true := by decide
theorem test_releaseAll : gives (exec (.releaseAll 0 []) { running with image := running.image.set 64 ⟨0, .absent, 65535, some 5⟩ })
    (fun t => t.forceCount == 0) = true := by decide +kernel
theorem test_sendOnce : gives (exec (.sendOnce 0 [0, 2]) cycling) (fun t => (t.masterRt.get 2).armed) = true := by decide
theorem test_readEvents : gives (exec (.readEvents 0 [7]) { config with events := [⟨.lineDetached .fp, 3⟩], ovf := true })
    (fun t => t.events == [] && !t.ovf && (match t.fp.due with
      | some (.reply _ p _) => p == [0x0D, 1, 1, 7, 2, 0, 0, 0, 3, 0]
      | _ => false)) = true := by decide
theorem test_unknownCommand : gives (exec (.unknownCommand 0 [14]) config) (fun t => match t.fp.due with
    | some (.reply _ p _) => p == [14, 7]
    | _ => false) = true := by decide
theorem test_frameError : gives (exec (.frameError .sp noise false) cycling) (fun t => t.sp.link.score == 8 && t.sp.link.phase == .ignoring) =
    true := by decide
theorem test_frameError_detaches : gives (exec (.frameError .sp noise false) { cycling with
    sp := { cycling.sp with link := { cycling.sp.link with score := 240, health := .degraded } } })
    (fun t => t.sp.state == .detached && t.attached == none && t.events.map (·.event) ==
      [.lineDetached .sp, .slotLost .sp 1, .spreaderDetached 0 2]) = true := by decide +kernel
theorem test_strayFrame : gives (exec (.strayFrame .cp (frame .poll []) false) { cycling with
    cp := { cycling.cp with link := { cycling.cp.link with score := 9 } } }) (fun t => t.cp.link.score == 8) = true := by decide
theorem test_masterResponse : gives (exec (.masterResponseAccepted .sp (frame .data [7, 0])) (inTurn (.window 1) cycling))
    (fun t => t.image.get 65 == ⟨7, .good, 0, none⟩ && (t.masterRt.get 1).status == .live && t.sp.turn == .inGap 1) = true := by decide
theorem test_hailReply : gives (exec (.hailReplyTaken (frame .hailReply [0x40, 0x21, 0x40, 0x7B, 0, 0])) (searching .window))
    (fun t => t.attached == some 0 && t.serials.get 0 == 31552 && t.sp.turn == .due .regularOut 0) = true := by decide
theorem test_festoonData : gives (exec (.festoonDataAccepted ⟨1, .data, 3, false, false, [9]⟩) running)
    (fun t => (t.image.get 192).value == 9 && (t.fp.slots.get 0).status == .live) = true := by decide
theorem test_festoonPoll : gives (exec (.festoonPoll ⟨1, .poll, 4, false, false, []⟩) running) (fun t => t.fp.due == some (.data 1)) = true := by
  decide
theorem test_receptionStart : gives (exec .festoonReceptionStart { running with fp := { running.fp with due := some (.data 1) } })
    (fun t => t.fp.due == none && t.fp.link.phase == .receiving) = true := by decide
theorem test_dataAnswer : gives (exec .festoonDataAnswer { running with fp := { running.fp with due := some (.data 1) } })
    (fun t => t.fp.link.phase == .sending ⟨1, .data, 4, false, false, [0x0F]⟩ .kbit500) = true := by decide
theorem test_mgmtReplyStart : gives (exec .mgmtReplyStart { config with fp := { config.fp with due := some (.reply 2 [4, 0] .kbit250) } })
    (fun t => t.fp.link.phase == .sending ⟨1, .mgmtReply, 2, false, false, [4, 0]⟩ .kbit250) = true := by decide
theorem test_cycleTimer_starts : gives (exec (.cycleTimerExpiry .sp) cycling) (fun t => t.sp.turn == .due .regularOut 0 && t.sp.cycle == some 1) =
    true := by decide
theorem test_cycleTimer_overruns : gives (exec (.cycleTimerExpiry .sp) { cycling with sp := { cycling.sp with cycle := some 1 } })
    (fun t => t.sp.overrun && t.events.map (·.event) == [.cycleOverrun .sp]) = true := by decide
theorem test_outTurnStart : gives (exec (.outTurnStart .sp) (inTurn (.due .regularOut 0) cycling))
    (fun t => t.sp.link.phase == .sending ⟨5, .data, 1, false, false, [0x0F]⟩ .kbit500) = true := by decide
theorem test_outFrameEnd_disarms : gives (exec (.outFrameEnd .sp) { inTurn (.outFrame 2) cycling with
    masterRt := cycling.masterRt.set 2 ⟨.live, 0, true, 0⟩ }) (fun t => !(t.masterRt.get 2).armed && t.sp.turn == .outGap 2) = true := by
  decide
theorem test_turnBoundary_serves_queue : gives (exec (.turnBoundary .sp) { inTurn (.outGap 0) cycling with
    sp := { (inTurn (.outGap 0) cycling).sp with queue := [2, 0], cycle := some 1 } })
    (fun t => t.sp.turn == .due .chainedOut 0 && t.sp.queue == [] && t.sp.cycle == some 1) = true := by decide
theorem test_inTurn : gives (exec (.inTurn .sp) (inTurn (.due .regularIn 1) cycling))
    (fun t => t.sp.link.phase == .sending ⟨5, .poll, 3, false, false, []⟩ .kbit500) = true := by decide
theorem test_pollEnd : gives (exec (.pollEnd .sp) (inTurn (.poll 1) cycling)) (fun t => t.sp.turn == .window 1) = true := by decide
theorem test_windowExpiry_counts : gives (exec (.responseWindowExpiry .sp) (inTurn (.window 1) cycling))
    (fun t => t.masterRt.get 1 == ⟨.awaiting, 1, false, 0⟩ && t.sp.turn == .missed 1) = true := by decide
theorem test_windowExpiry_ends_attachment : gives (exec (.responseWindowExpiry .sp) { inTurn (.window 1) cycling with
    masterRt := cycling.masterRt.set 1 ⟨.missing, 1, false, 0⟩ })
    (fun t => t.sp.state == .search && t.attached == none && t.events.map (·.event) == [.slotLost .sp 1, .spreaderDetached 0 1]) =
    true := by decide
theorem test_firstHail : gives (exec .firstHail (searching .firstDue))
    (fun t => t.sp.link.phase == .sending ⟨31, .hail, 0, false, false, []⟩ .kbit500 && t.searchTimer == some 100) = true := by decide
theorem test_searchTimer : gives (exec .searchTimerExpiry (searching .waiting)) (fun t => t.hail == .sending) = true := by decide
theorem test_hailEnd : gives (exec .hailEnd (searching .sending)) (fun t => t.hail == .window) = true := by decide
theorem test_searchWindow : gives (exec .searchWindowExpiry (searching .window)) (fun t => t.hail == .waiting) = true := by decide
theorem test_detachTimer_festoon : gives (exec (.detachTimerExpiry .fp) { running with
    fp := { running.fp with state := .detached, detachTimer := some 250 } }) (fun t => t.fp.state == .listening && t.fp.detachTimer == none) =
    true := by decide
theorem test_staleTimer : gives (exec (.staleTimerExpiry 0) { running with
    fp := { running.fp with slots := running.fp.slots.set 0 ⟨.live, some 50, 0⟩ }, image := running.image.set 192 ⟨9, .good, 3, none⟩ })
    (fun t => t.image.get 192 == ⟨9, .stale, 3, none⟩ && t.events.map (·.event) == [.slotLost .fp 0]) = true := by decide +kernel
theorem test_sweep : gives (exec .sweep running) (fun t => t.gateRt.get 0 == ⟨.opened, 1, .opened⟩ && t.image.get 320 == ⟨1, .good, 0, none⟩ &&
    t.events.map (·.event) == [.gateOpened 0]) = true := by decide +kernel
theorem test_l2ChainBuild : gives (exec .l2ChainBuild { running with
    tables := { running.tables with l2 := ⟨0, 1⟩ }, tio := { running.tio with l2Requests := 1 } })
    (fun t => t.tio.relays == 0x0F && t.tio.l2Requests == 0) = true := by decide
theorem test_scanTimer : gives (exec .scanTimerExpiry { running with tio := { running.tio with scanTimer := some 5 } })
    (fun t => t.tio.scanInFlight) = true := by decide
theorem test_scanCompletion : gives (exec (.scanCompletion 0x8001 (.fill 16 3000)) { running with
    tio := { running.tio with scanTimer := some 5, scanInFlight := true } })
    (fun t => (t.tio.inputs.get 15).level && !(t.tio.inputs.get 1).level && (t.tio.channels.get 0).last == 3000 &&
      (t.feed .cab).handovers.length == 1) = true := by decide
theorem test_feedReading : gives (exec (.feedReading .cab) { running with feedRt := running.feedRt.set 1 ⟨.good, 0, [⟨1999, .delivered⟩], []⟩ })
    (fun t => (t.feed .cab).state == .low && (t.feed .cab).orders == [.hold] && t.events.map (·.event) == [.feedLow .cab 1999]) = true := by
  decide
theorem test_portHold : gives (exec (.portHold .sp) { cycling with feedRt := cycling.feedRt.set 0 ⟨.low, 0, [], [.hold]⟩ })
    (fun t => t.sp.state == .held && t.attached == none && t.events.map (·.event) == [.spreaderDetached 0 3]) = true := by decide
theorem test_portRelease : gives (exec (.portRelease .cp) { running with
    cp := { running.cp with state := .held }, feedRt := running.feedRt.set 1 ⟨.good, 0, [], [.release]⟩ })
    (fun t => t.cp.state == .cycling && (t.masterRt.get 65).status == .awaiting) = true := by decide
theorem test_lineRest : gives (exec (.lineRest .cp) { cycling with
    cp := { cycling.cp with link := { cycling.cp.link with phase := .ignoring } } }) (fun t => t.cp.link.phase == .rested) = true := by
  decide

/-! ### A state and operands that meet the hypotheses of each statement, at the edges of each clause -/

/-- A management request can be taken in the state. -/
def takes (s : State) (req : List Byte) : Prop := s.awake ∧ s.festoonReceives = true ∧ requestFits req = true

theorem takes_longest : takes config (List.replicate 47 0) ∧ takes running (List.replicate 47 0) ∧ takes cycling (List.replicate 47 0) :=
  ⟨⟨rfl, by decide, by decide⟩, ⟨rfl, by decide, by decide⟩, ⟨rfl, by decide, by decide⟩⟩

/-- The RESTART reply on the wire, with the tables validated or not. -/
def replying (v : Bool) : State :=
  let s := onLine (.sending (frame .mgmtReply []) .kbit500) running
  { s with validated := v, fp := { s.fp with restartPending := true } }

theorem witness_StepRunsFrontCommand : State.reset.pending = [] := rfl

theorem witness_ResetInputStopsThePart : ({ running with resetHeld := true } : State).resetHeld = true ∧
    (∀ strap, Instr.sweep ≠ .powerOn strap) ∧ Instr.sweep ≠ .resetInputAssert ∧ (∀ strap, Instr.sweep ≠ .resetInputRelease strap) :=
  ⟨rfl, by simp, by simp, by simp⟩

theorem witness_AgesAndTimestampAdvance : config.awake ∧ running.awake := ⟨rfl, rfl⟩

theorem witness_RestartPendsThenTakesEffect : (∀ v, (replying v).awake ∧ (replying v).fp.restartPending = true ∧
    (∃ f r, (replying v).fp.link.phase = .sending f r) ∧ (replying v).validated = v) ∧ takes config [] ∧ takes running [] :=
  ⟨fun _ => ⟨rfl, rfl, ⟨_, _, rfl⟩, rfl⟩, ⟨rfl, by decide, rfl⟩, ⟨rfl, by decide, rfl⟩⟩

theorem witness_StatusReportsThePart : takes config [] ∧ takes running (List.replicate 47 0) := ⟨⟨rfl, by decide, rfl⟩, ⟨rfl, by decide, rfl⟩⟩

/-- A part in CONFIG whose FEED 0 is enabled with channel 15 off (chapter 12, step 9). -/
def feedOff : State := { State.reset with tables := { Tables.powerOn with feeds := Tables.powerOn.feeds.set 0 ⟨true, 2600, 2900, 3, 4⟩ } }

theorem witness_EnterConfigAndEnterRun : takes config [] ∧ takes running [] ∧ takes feedOff [] ∧ config.festoonGood.operating = .config ∧
    running.festoonGood.operating = .run ∧ State.reset.festoonGood.tables.validate = none ∧
    feedOff.festoonGood.tables.validate = some ⟨.feed, 0, .feedChannel⟩ :=
  ⟨⟨rfl, by decide, rfl⟩, ⟨rfl, by decide, rfl⟩, ⟨rfl, by decide, rfl⟩, by decide, by decide, by decide +kernel, by decide +kernel⟩

theorem witness_UnknownAndShortRequestsAnswered : config.awake ∧ config.festoonReceives = true ∧ knownCommand 0 = false ∧
    knownCommand 14 = false ∧ (List.replicate 47 (0 : Byte)).length ≤ 47 ∧ ([1, 0, 0] : List Byte).length < 4 ∧
    ([1, 0] : List Byte).length < 3 ∧ ([1] : List Byte).length < 2 ∧ ([] : List Byte).length < 1 :=
  ⟨rfl, by decide, by decide, by decide, by decide, by decide, by decide, by decide, by decide⟩

theorem witness_ReadTableReturnsWholeRecords : takes config [11, 7, 0, 1] ∧ tableOfCode 11 = some .watch ∧ tableOfCode 4 = some .slot ∧
    tableOfCode 0 = none ∧ tableOfCode 12 = none ∧ wordAt [11, 7, 0, 1] 1 < tableSize .watch ∧ tableSize .watch ≤ wordAt [11, 8, 0, 1] 1 ∧
    wordAt [4, 95, 0, 1] 1 < tableSize .slot ∧ config.watchLast.get 7 = none ∧
    ({ running with watchLast := running.watchLast.set 7 (some (-1, .forced)) } : State).watchLast.get 7 = some (-1, .forced) :=
  ⟨⟨rfl, by decide, rfl⟩, rfl, rfl, rfl, rfl, by decide, by decide, by decide, by decide, by decide⟩

theorem witness_WriteTableReplacesOrRefuses : takes config [3, 0, 0] ∧ takes running [11, 0, 0] ∧ tableOfCode 0 = none ∧
    config.festoonGood.operating = .config ∧ running.festoonGood.operating = .run ∧
    (Tables.powerOn.write .profile 3 [1, 0x40, 0x21]).isSome = true ∧ Tables.powerOn.write .profile 4 [1, 0x40, 0x21] = none ∧
    (Tables.powerOn.write .watch 7 [1, 255, 1, 0, 0]).isSome = true ∧ Tables.powerOn.write .watch 7 [1, 0, 2, 0, 0] = none ∧
    (Tables.powerOn.write .gate 32 [0]).map (·.2) = some true :=
  ⟨⟨rfl, by decide, rfl⟩, ⟨rfl, by decide, rfl⟩, rfl, by decide, by decide, by decide +kernel, by decide +kernel, by decide +kernel,
    by decide +kernel, by decide +kernel⟩

/-- R155, R84: a record that lacks its last byte, an entry past its table and a structural field past its range are refused. -/
theorem test_writes_refused : Tables.powerOn.write .slot 79 [1, 0, 63, 30, 16, 20, 0, 1, 127, 1, 24, 1, 0xFF] = none ∧
    Tables.powerOn.write .slot 96 [1, 0, 63, 16, 127, 1, 24, 5, 0, 0xFF, 0] = none ∧
    Tables.powerOn.write .placement 383 [0, 255, 17, 0, 255, 1, 255, 255, 16, 63, 31, 0, 0] = none ∧
    (Tables.powerOn.write .placement 383 [0, 255, 16, 0, 255, 1, 255, 255, 16, 63, 31, 0, 0]).isSome = true := by decide +kernel
/-- R156: a miss limit of 0 is clamped in an IN record and stored as given in an OUT record; an unused LINE field is stored as given. -/
theorem test_clamps_of_used_fields :
    (masterOf? [1, 0, 0, 1, 0, 20, 0, 0, 0, 0, 0, 0, 0xFF, 0]).map (fun r => (r.1.missLimit, r.2)) = some (1, true) ∧
    (masterOf? [1, 1, 0, 1, 0, 20, 0, 0, 0, 0, 0, 0, 0xFF, 0]).map (fun r => (r.1.missLimit, r.2)) = some (0, false) ∧
    (lineOf? 0 [1, 1, 10, 0, 0]).map (fun r => (r.1.searchInterval, r.2)) = some (20, true) ∧
    (lineOf? 1 [1, 1, 10, 0, 0]).map (fun r => (r.1.searchInterval, r.2)) = some (0, false) ∧
    (lineOf? 2 [1, 1, 1, 0, 0]).map (fun r => (r.1.cyclePeriod, r.2)) = some (1, false) := by decide

theorem witness_WrittenRecordsReadBack : signalRange (-32768) ∧ signalRange 32767 ∧
    (let m : MasterSlot := ⟨true, .inbound, 63, 30, 16, 65535, 255, 383, 24, true, some .l⟩
    1 ≤ m.node.toNat ∧ m.node.toNat ≤ 30 ∧ m.length ≤ 16 ∧ m.window ≤ 65535 ∧ m.missLimit ≤ 255 ∧ m.first ≤ 383 ∧ m.count ≤ 24) ∧
    1 ≤ (31 : BitVec 5).toNat := by unfold signalRange; decide

/-- Tables that pass every check and use every kind of entry a check examines: a conversion, a gate on an OUT field, a latching gate with
a chain, a GATE term, a chain of an IN slot, an L0 placement. -/
def planned : Tables :=
  { tables with
    placements := ((tables.placements.set 0 ⟨.outbound, 0, 8, false, ⟨64, none, .x1⟩, none, some 0, 0xFF⟩).set 1
      ⟨.inbound, 0, 8, false, ⟨65, none, .x1⟩, some 63, none, 0⟩).set 4 ⟨.inbound, 240, 12, false, ⟨0, none, .x1⟩, none, none, 0⟩
    conversions := tables.conversions.set 63 ⟨true, 0, 1, 0, 0, 0, 0⟩
    masterSlots := tables.masterSlots.set 1 { inSlot 2 with chain := some (.sp 0) }
    gates := tables.gates.set 31 ⟨true, 2, 1, false, true, some ⟨256, none, .x1⟩, 351, some .l⟩
    terms := (tables.terms.set 248 ⟨.zero, .gate, false, 0⟩).set 249 ⟨⟨64, some 256, .x1⟩, .eq, false, 0⟩
    l0 := ⟨4, 1⟩ }

/-- What `planned` examines: slot 1 of profile 0, an IN slot with a chain. -/
def plannedSlot : Examined := ⟨.profile 0, .slot, 1, .inbound, 3, 2, 1, 1, some (.sp 0)⟩

theorem witness_ValidationFindsTheFirstFailure : (∀ g, (planned.gates.get g).termCount ≤ 8) ∧ planned.validate = none ∧
    (∀ g, (feedOff.tables.gates.get g).termCount ≤ 8) ∧ feedOff.tables.validate = some ⟨.feed, 0, .feedChannel⟩ := by decide +kernel

theorem witness_ValidatedTablesAreConsistent : planned.validate = none ∧ (planned.areas.get 0).enabled = true ∧
    (planned.areas.get 1).enabled = true ∧ planned.Examines plannedSlot ∧ planned.Names plannedSlot 0 (planned.placements.get 1) ∧
    (planned.placements.get 1).conversion = some 63 ∧ (planned.placements.get 0).direction = .outbound ∧
    (planned.placements.get 0).gate = some 0 ∧ (planned.profiles.get 0).enabled = true ∧ (planned.lines.get 0).enabled = true ∧
    (planned.gates.get 31).enabled = true ∧ (planned.gates.get 31).latching = true ∧ (planned.gates.get 31).chain = some .l ∧
    (planned.terms.get 248).test = .gate ∧ (planned.terms.get 249).test = .eq ∧ planned.l0.count = 1 ∧
    (planned.placements.get 4).offset / 16 = 15 ∧ (planned.feeds.get 0).enabled = true ∧ (planned.feeds.get 1).enabled = true :=
  ⟨by decide +kernel, by decide, by decide, .inl ⟨0, 1, by decide +kernel⟩, ⟨by decide, 1, rfl, rfl⟩, by decide +kernel, by decide +kernel,
    by decide +kernel, by decide, by decide, by decide +kernel, by decide +kernel, by decide +kernel, by decide +kernel, by decide +kernel,
    rfl, by decide +kernel, by decide, by decide⟩

theorem witness_ReadSignalsReturnsViews : takes config [255, 1, 8] ∧ wordAt [255, 1, 8] 0 = 511 ∧ wordAt [0, 2, 8] 0 = 512 :=
  ⟨⟨rfl, by decide, rfl⟩, by decide, by decide⟩

theorem witness_WriteSignalWritesPanelRecords : takes config [0, 1, 0, 0] ∧ config.festoonGood.tables.ownedBy .panel 256 = true ∧
    config.festoonGood.tables.ownedBy .panel 287 = true ∧ config.festoonGood.tables.ownedBy .panel 255 = false ∧
    config.festoonGood.tables.ownedBy .panel 288 = false ∧ (256 : SigIx).val = wordAt [0, 1, 0, 0] 0 ∧ 512 ≤ wordAt [0, 2, 0, 0] 0 :=
  ⟨⟨rfl, by decide, rfl⟩, by decide +kernel, by decide +kernel, by decide +kernel, by decide +kernel, by decide, by decide⟩

/-- Signals 64 to 95 forced. -/
def forced : State := { running with image := running.image.mapIdx fun i r => if 64 ≤ i.val ∧ i.val < 96 then { r with force := some 1 } else r }

theorem witness_ForcesAreSetAndReleased : takes config [0, 1, 0, 0] ∧ takes running [0, 1, 0, 0] ∧ takes forced [0, 1, 0, 0] ∧
    config.festoonGood.operating = .config ∧ forced.festoonGood.operating = .run ∧ forced.festoonGood.tables.forceable 0 = false ∧
    forced.festoonGood.tables.forceable 256 = true ∧ (forced.festoonGood.image.get 256).force = none ∧
    forced.festoonGood.forceCount = 32 ∧ (forced.festoonGood.image.get 95).force ≠ none ∧ running.festoonGood.forceCount < 32 ∧
    takes forced [95, 0] ∧ (95 : SigIx).val = wordAt [95, 0] 0 ∧ (forced.festoonGood.image.get 96).force = none ∧
    512 ≤ wordAt [0, 2] 0 :=
  ⟨⟨rfl, by decide, rfl⟩, ⟨rfl, by decide, rfl⟩, ⟨rfl, by decide, rfl⟩, by decide, by decide, by decide +kernel, by decide +kernel,
    by decide +kernel, by decide +kernel, by decide +kernel, by decide +kernel, ⟨rfl, by decide, rfl⟩, by decide, by decide +kernel,
    by decide⟩

theorem witness_SendOnceArmsOnceSlots : takes config [0, 2] ∧ takes running [0, 2] ∧ takes cycling [1, 15] ∧
    config.festoonGood.operating = .config ∧ cycling.festoonGood.operating = .run ∧ 2 ≤ byteAt [2, 0] 0 ∧ 16 ≤ byteAt [1, 16] 1 ∧
    running.festoonGood.activeEntry .sp 2 = none ∧ cycling.festoonGood.activeEntry .sp 2 = some 2 ∧
    cycling.festoonGood.activeEntry .cp 15 = some 79 ∧ (cycling.festoonGood.slotRec 79).enabled = false ∧
    (cycling.festoonGood.slotRec 1).direction = .inbound ∧ (cycling.festoonGood.slotRec 0).once = false ∧
    (cycling.festoonGood.slotRec 2).enabled = true ∧ (cycling.festoonGood.slotRec 2).direction = .outbound ∧
    (cycling.festoonGood.slotRec 2).once = true :=
  ⟨⟨rfl, by decide, rfl⟩, ⟨rfl, by decide, rfl⟩, ⟨rfl, by decide, rfl⟩, by decide, by decide, by decide, by decide, by decide, by decide,
    by decide, by decide +kernel, by decide +kernel, by decide +kernel, by decide +kernel, by decide +kernel, by decide +kernel⟩

theorem witness_ReadEventsDrainsOldestFirst : takes config [0] ∧ takes config [6] ∧ takes config [7] :=
  ⟨⟨rfl, by decide, rfl⟩, ⟨rfl, by decide, rfl⟩, ⟨rfl, by decide, rfl⟩⟩

theorem witness_StrayFrameIsScoredOnly : cycling.awake ∧ frameWithinLimit (frame .poll []) = true ∧ cycling.festoonReceives = true ∧
    cycling.beginReception.isStray .fp (frame .poll []) = true ∧
    (∀ l, cycling.masterReceives l = true ∧ cycling.isStray (masterLine l) (frame .poll []) = true ∧ (∀ k, (cycling.port l).turn ≠ .window k)) ∧
    (inTurn (.window 1) cycling).masterReceives .sp = true ∧ (inTurn (.window 1) cycling).isStray .sp (frame .poll []) = true ∧
    (inTurn (.window 1) cycling).activeEntry .sp 1 = some 1 ∧ (searching .window).masterReceives .sp = true ∧
    (searching .window).isStray .sp (frame .poll []) = true :=
  ⟨rfl, by decide, by decide, by decide +kernel, fun l => by cases l <;> exact ⟨by decide, by decide, by simp [State.port, cycling, running,
    config, State.reset, State.powerOn, MasterPort.powerOn]⟩, by decide, by decide, by decide, by decide, by decide⟩

/-- A part whose three scores stand at `n`. -/
def scored (n : Nat) (s : State) : State :=
  { s with
    sp := { s.sp with link := { s.sp.link with score := n, health := .degraded } }
    cp := { s.cp with link := { s.cp.link with score := n, health := .degraded } }
    fp := { s.fp with link := { s.fp.link with score := n, health := .degraded } } }

theorem witness_FrameErrorRaisesScore : (scored 239 cycling).awake ∧ isFrameError noise = true ∧ (scored 239 cycling).festoonReceives = true ∧
    (scored 239 cycling).beginReception.fp.link.score + 8 < 248 ∧
    (∀ l, (scored 239 cycling).masterReceives l = true ∧ ((scored 239 cycling).port l).link.score + 8 < 248) ∧
    (scored 239 (inTurn (.window 1) cycling)).masterReceives .sp = true ∧
    (scored 239 (inTurn (.window 1) cycling)).activeEntry .sp 1 = some 1 :=
  ⟨rfl, by decide, by decide, by decide, fun l => by cases l <;> decide, by decide, by decide⟩

theorem witness_OverflowDetachesThePort : (scored 240 cycling).awake ∧ isFrameError noise = true ∧ (scored 240 cycling).festoonReceives = true ∧
    248 ≤ (scored 240 cycling).beginReception.fp.link.score + 8 ∧
    (∀ l, (scored 240 cycling).masterReceives l = true ∧ 248 ≤ ((scored 240 cycling).port l).link.score + 8) :=
  ⟨rfl, by decide, by decide, by decide, fun l => by cases l <;> decide⟩

theorem witness_PlacementsApplyTheirFields : let run := tables.run 0 2
    ((run.filter fun p => p.direction == .inbound).map fun p => p.addr.base).Nodup ∧
    (∀ p ∈ run, p.direction = .inbound → p.offset + p.width = 8 * ([7] : List Byte).length) ∧ (∃ p ∈ run, p.direction = .inbound) := by
  decide +kernel

theorem witness_ResponseIsAccepted : (inTurn (.window 1) cycling).awake ∧ frameWithinLimit (frame .data [7, 0]) = true ∧
    (inTurn (.window 1) cycling).masterReceives .sp = true ∧ (inTurn (.window 1) cycling).activeEntry .sp 1 = some 1 ∧
    (frame .data [7, 0]).address = (cycling.slotRec 1).node ∧ (frame .data [7, 0]).tag = (cycling.slotRec 1).tag :=
  ⟨rfl, by decide, by decide, by decide, by decide, by decide⟩

theorem witness_ChainRequestsJoinTheQueue : (cycling.port .sp).state = .cycling ∧ cycling.activeEntry .sp 0 = some 0 ∧
    (cycling.masterRt.get 0).status ≠ .disabled ∧ (cycling.slotRec 0).direction = .outbound ∧ (cycling.slotRec 0).once = false ∧
    (running.port .sp).state ≠ .cycling ∧ (cycling.masterRt.get 3).status = .disabled ∧ cycling.activeEntry .sp 3 = some 3 ∧
    (cycling.slotRec 2).once = true ∧ (cycling.masterRt.get 2).armed = false := by decide +kernel

/-- R87, R110: a profile with no slot that takes a turn is attached with no turn due and no cycle in progress. -/
theorem test_hailReply_no_turn : gives (exec (.hailReplyTaken (frame .hailReply [0x40, 0x21, 0x40, 0x7B, 0, 0]))
    { searching .window with tables := { tables with masterSlots := Tables.powerOn.masterSlots } })
    (fun t => t.attached == some 0 && t.nextVisit .sp 0 == none && t.sp.turn == .none && t.sp.cycle == none) = true := by decide +kernel

theorem witness_HailReplyAttachesOrIsUnknown : (searching .window).awake ∧ (searching .window).masterReceives .sp = true ∧
    (searching .window).sp.state = .search ∧ (searching .window).hail = .window ∧
    ([0x40, 0x21, 0x40, 0x7B, 0, 0] : List Byte) = leBytes 2 (0x2140 : BitVec 16).toNat ++ leBytes 4 (31552 : BitVec 32).toNat ∧
    ((searching .window).tables.profiles.get 0).enabled = true ∧ ((searching .window).tables.profiles.get 0).typeCode = 0x2140 ∧
    (∀ p, ¬(((searching .window).tables.profiles.get p).enabled = true ∧ ((searching .window).tables.profiles.get p).typeCode = 0x2240)) :=
  ⟨rfl, by decide, rfl, rfl, by decide, by decide, by decide, by decide⟩

theorem witness_FestoonDataIsAccepted : running.awake ∧ running.festoonReceives = true ∧ running.beginReception.operating = .run ∧
    running.beginReception.fp.address = 1 ∧ (running.beginReception.tables.festoonSlots.get 0).enabled = true ∧
    (running.beginReception.tables.festoonSlots.get 0).direction = .inbound ∧
    (running.beginReception.tables.festoonSlots.get 0).tag = 3 :=
  ⟨rfl, by decide, by decide, by decide, by decide, by decide, by decide⟩

theorem witness_FestoonAnswersAreDueThenSent : running.awake ∧ running.festoonReceives = true ∧ running.beginReception.operating = .run ∧
    (running.beginReception.tables.festoonSlots.get 1).enabled = true ∧
    (running.beginReception.tables.festoonSlots.get 1).direction = .outbound ∧
    (running.beginReception.tables.festoonSlots.get 1).tag = 4 ∧ (∀ j : SlotIx, j < 1 → ¬((running.tables.festoonSlots.get j).enabled = true ∧
      (running.tables.festoonSlots.get j).direction = .outbound ∧ (running.tables.festoonSlots.get j).tag = 4)) ∧
    running.fp.state = .listening ∧ running.fp.link.phase = .rested ∧ (onLine .ignoring running).fp.link.phase = .ignoring :=
  ⟨rfl, by decide, by decide, by decide, by decide, by decide, by decide, rfl, rfl, rfl⟩

/-- A profile whose only slot in use is a ONCE slot that is not armed: no visit is a turn. -/
def onlyOnce : State := { cycling with
  masterRt := (cycling.masterRt.set 0 .idle).set 1 .idle, sp := { cycling.sp with queue := [2] } }

/-- R87: a cycle that begins while a chained turn is on the wire has visited no slot, so the ONCE slot that is armed then still has its turn in
that cycle. -/
theorem test_cycle_waits_behind_chained_turn :
    gives (exec (.cycleTimerExpiry .sp) (inTurn (.outGap 2) { onlyOnce with sp := { onlyOnce.sp with queue := [] } })) (fun s =>
      s.sp.cycle == some 0 && s.sp.turn == .outGap 2 &&
      gives (exec (.sendOnce 0 [0, 2]) s) (fun t => gives (exec (.turnBoundary .sp) t) fun u =>
        u.sp.turn == .due .regularOut 2 && u.sp.cycle == some 3)) = true := by decide

theorem witness_CycleTimerStartsOrOverruns : cycling.awake ∧ (cycling.port .sp).state = .cycling ∧ (cycling.port .sp).cycleTimer ≠ none ∧
    (cycling.port .sp).cycle = none ∧ (cycling.port .sp).turn = .none ∧ (cycling.port .sp).queue = [] ∧
    cycling.nextVisit .sp 0 = some (0, .regularOut) ∧ onlyOnce.nextVisit .sp 0 = none ∧ (onlyOnce.port .sp).queue ≠ [] ∧
    ((inTurn (.outGap 2) cycling).port .sp).turn ≠ .none ∧ ({ onlyOnce with sp := cycling.sp } : State).nextVisit .sp 0 = none ∧
    cycling.nextVisit .sp 2 = none ∧ (({ cycling with sp := { cycling.sp with cycle := some 16 } } : State).port .sp).cycle = some 16 :=
  ⟨rfl, rfl, by decide, rfl, rfl, rfl, by decide +kernel, by decide +kernel, by decide, by decide, by decide +kernel, by decide +kernel,
    rfl⟩

theorem witness_TurnsSendTheirFrames : cycling.awake ∧ (∀ t, ((inTurn t cycling).port .sp).state = .cycling ∧ ((inTurn t cycling).port .sp).turn = t) ∧
    (inTurn (.due .regularOut 0) cycling).activeEntry .sp 0 = some 0 ∧ (inTurn (.poll 1) cycling).activeEntry .sp 1 = some 1 :=
  ⟨rfl, fun _ => ⟨rfl, rfl⟩, by decide, by decide⟩

/-- The Spreader Port at the end of slot 1's turn, with a queue and a place of the cycle. -/
def atEnd (queue : List SlotIx) (place : Option Nat) (overdue : Bool) : State :=
  { cycling with sp := { cycling.sp with turn := .outGap 0, queue := queue, cycle := place, overdue := overdue } }

theorem witness_TurnBoundaryServesQueueThenCycle : (∀ q p o, (atEnd q p o).awake ∧ ((atEnd q p o).port .sp).atTurnEnd = true) ∧
    ((atEnd [2, 0] (some 0) false).port .sp).cycle = some 0 ∧ (∀ o, ((atEnd [2, 0] (some 16) o).port .sp).cycle = some 16 ∧
      ((atEnd [2, 0] (some 16) o).port .sp).overdue = o) ∧ (atEnd [2, 0] (some 16) true).nextVisit .sp 16 = none ∧
    (atEnd [2, 0] (some 1) true).nextVisit .sp 1 ≠ none ∧ (atEnd [2, 0] none false).activeEntry .sp 2 = some 2 ∧ ((atEnd [2, 0] none false).slotRec 2).once = true ∧
    ((atEnd [2, 0] none false).masterRt.get 2).armed = false ∧ ((atEnd [2, 0] none false).slotRec 0).once = false ∧
    (atEnd [] (some 1) false).nextVisit .sp 1 = some (1, .regularIn) ∧ (atEnd [] (some 2) true).nextVisit .sp 2 = none ∧
    (atEnd [] (some 2) true).nextVisit .sp 0 = some (0, .regularOut) :=
  ⟨fun _ _ _ => ⟨rfl, rfl⟩, rfl, fun _ => ⟨rfl, rfl⟩, by decide +kernel, by decide +kernel, by decide, by decide +kernel, by decide +kernel,
    by decide +kernel, by decide +kernel, by decide +kernel, by decide +kernel⟩

theorem witness_WindowExpiryIsAMiss : (inTurn (.window 1) cycling).awake ∧ ((inTurn (.window 1) cycling).port .sp).state = .cycling ∧
    ((inTurn (.window 1) cycling).port .sp).turn = .window 1 ∧ (inTurn (.window 1) cycling).activeEntry .sp 1 = some 1 ∧
    (missedSlot 1 ⟨.live, 0, false, 0⟩).status = .lost ∧ (missedSlot 2 ⟨.live, 0, false, 0⟩).status = .missing ∧
    (missedSlot 2 ⟨.awaiting, 1, false, 0⟩).misses = 2 ∧ (missedSlot 15 ⟨.missing, 13, false, 0⟩).misses = 14 :=
  ⟨rfl, rfl, rfl, by decide, by decide, by decide, by decide, by decide⟩

theorem witness_SearchHailsAndOpensWindows : (∀ h, (searching h).awake ∧ (searching h).sp.state = .search ∧ (searching h).hail = h) ∧
    (searching .waiting).searchTimer ≠ none := ⟨fun _ => ⟨rfl, rfl, rfl⟩, by decide⟩

/-- All three ports DETACHED, both monitors in a state. -/
def detached (m : FeedState) : State :=
  { running with
    sp := { running.sp with state := .detached, detachTimer := some 250 }
    cp := { running.cp with state := .detached, detachTimer := some 250 }
    fp := { running.fp with
      state := .detached, detachTimer := some 250, slots := running.fp.slots.set 0 ⟨.live, some 50, 0⟩ }
    feedRt := .fill 2 ⟨m, 0, [], []⟩ }

theorem witness_DetachAndStaleTimersExpire : (∀ m, (detached m).awake ∧ (detached m).sp.state = .detached ∧ (detached m).sp.detachTimer ≠ none ∧
    (detached m).cp.state = .detached ∧ (detached m).cp.detachTimer ≠ none ∧ (detached m).fp.state = .detached ∧
    (detached m).fp.detachTimer ≠ none) ∧ ((detached .low).feedRt.get 0).state = .low ∧ ((detached .low).tables.feeds.get 0).enabled = true ∧
    ((detached .dipping).feedRt.get 1).state = .dipping ∧ ((detached .low).fp.slots.get 0).staleTimer ≠ none :=
  ⟨fun _ => ⟨rfl, rfl, by simp [detached], rfl, by simp [detached], rfl, by simp [detached]⟩, by decide, by decide, by decide, by decide⟩

theorem witness_RestsAndReceptionStarts : cycling.awake ∧ (cycling.port .cp).state = .cycling ∧
    (({ cycling with cp := { cycling.cp with link := { cycling.cp.link with phase := .ignoring } } } : State).port .cp).link.phase = .ignoring ∧
    (searching .waiting).sp.state = .search ∧ (onLine .ignoring running).fp.state = .listening ∧
    (onLine .ignoring running).fp.link.phase = .ignoring ∧ running.fp.link.phase = .rested ∧ running.fp.restartPending = false ∧
    (∃ f r, (onLine (.sending (frame .mgmtReply []) .kbit500) running).fp.link.phase = .sending f r) ∧
    (onLine .rested (replying true)).fp.restartPending = true ∧ (onLine .rested (replying true)).fp.link.phase = .rested :=
  ⟨rfl, rfl, rfl, rfl, rfl, rfl, rfl, rfl, ⟨_, _, rfl⟩, rfl, rfl⟩

theorem witness_SweepStepsEveryEnabledGate : running.awake ∧ running.operating = .run ∧ running.sweepTimer ≠ none ∧
    (running.tables.gates.get 0).enabled = true ∧ (running.tables.gates.get 31).enabled = false ∧
    (∀ h, (running.tables.gates.get h).enabled = true → (running.tables.gates.get h).output = 320 → h = 0) :=
  ⟨rfl, rfl, by decide, by decide, by decide, by decide⟩

theorem witness_TermsDriveAndGatesFall : (forced.read ⟨64, none, .x1⟩).quality = .forced ∧ (running.read ⟨64, none, .x1⟩).quality = .stored .absent ∧
    (tables.gates.get 0).termCount ≤ 8 := by decide +kernel

theorem witness_ValueTestsCompareWithK : (forced.read ⟨64, none, .x1⟩).quality = .forced ∧ signalRange (forced.read ⟨64, none, .x1⟩).value ∧
    forced.resolve ⟨64, none, .x1⟩ = some 64 := by unfold signalRange; decide +kernel

theorem witness_GatesRiseOnSuccessiveSweeps : let c : Gate := ⟨true, 1, 2, false, false, none, 0, none⟩
    1 ≤ c.k ∧ 1 ≤ 1 ∧ 1 < c.k := by decide

theorem witness_ScansBeginAndTerminalsStep :
    (let s : State := { running with tio := { running.tio with scanTimer := some 5, l2Requests := 1 } }
    s.awake ∧ s.operating = .run ∧ s.tio.scanTimer ≠ none ∧ s.tio.scanInFlight = false ∧ 0 < s.tio.l2Requests) ∧
    (let c : Channel := ⟨true, true⟩
    (c.openCheck = true ∧ 4064 ≤ (4064 : BitVec 12).toNat) ∧ ¬(4064 ≤ (4063 : BitVec 12).toNat) ∧
    (ChannelRt.mk .normal 1 0).openCount < 2 ∧ (ChannelRt.mk .normal 2 0).openCount = 2) :=
  ⟨⟨rfl, rfl, by decide, rfl, by decide⟩, by decide⟩

/-- A scan in flight, with L0 reading channel 0 and L1 reading inputs 0 to 3. -/
def scanning : State := { running with
  tables := { tables with
    placements := (tables.placements.set 4 ⟨.inbound, 0, 12, false, ⟨0, none, .x1⟩, none, none, 0⟩).set 5
      ⟨.inbound, 0, 16, true, ⟨1, none, .x1⟩, none, none, 0⟩
    l0 := ⟨4, 1⟩, l1 := ⟨5, 1⟩ }
  tio := { running.tio with scanTimer := some 5, scanInFlight := true } }

theorem witness_ScanCompletionDelivers : scanning.awake ∧ scanning.operating = .run ∧ scanning.tio.scanInFlight = true ∧
    (let ins := fun slot => (scanning.tables.lRun slot).filter fun p => p.direction == .inbound
    ((ins scanning.tables.l0 ++ ins scanning.tables.l1).map fun p => p.addr.base).Nodup ∧
    (∀ p ∈ ins scanning.tables.l0, 1 ≤ p.width ∧ p.offset + p.width ≤ 256) ∧
    (∀ p ∈ ins scanning.tables.l1, p.offset + p.width ≤ 16) ∧ (ins scanning.tables.l0).length = 1 ∧ (ins scanning.tables.l1).length = 1) :=
  ⟨rfl, rfl, rfl, by decide +kernel⟩

/-- A reading waits for the cab's monitor, in a state of it. -/
def readingWaits (st : FeedState) (count : Nat) : State :=
  { running with feedRt := running.feedRt.set 1 ⟨st, count, [⟨1999, .delivered⟩], []⟩ }

theorem witness_FeedReadingStepsTheMonitor : (∀ st n, (readingWaits st n).awake ∧ (readingWaits st n).operating = .run ∧
    ((readingWaits st n).feed .cab).handovers = [⟨1999, .delivered⟩] ∧ ((readingWaits st n).feed .cab).state = st) ∧
    (tables.feeds.get 1).enabled = true ∧ 1 ≤ (tables.feeds.get 1).nL ∧ 1 ≤ (tables.feeds.get 1).nG ∧
    (Tables.powerOn.feeds.get 1).enabled = false ∧
    (let e : FeedEntry := ⟨true, 2600, 2900, 3, 4⟩
    (2599 : BitVec 12).toNat < e.low ∧ e.low ≤ (2600 : BitVec 12).toNat ∧ (2899 : BitVec 12).toNat < e.recover ∧
    e.recover ≤ (2900 : BitVec 12).toNat) :=
  ⟨fun _ _ => ⟨rfl, rfl, rfl, rfl⟩, by decide, by decide, by decide, by decide, by decide⟩

/-- The monitors have handed an order to the ports, which are in a state. -/
def ordered (o : FeedOrder) (p : PortState) : State :=
  { running with
    sp := { running.sp with state := p }, cp := { running.cp with state := p }, feedRt := .fill 2 ⟨.low, 0, [], [o]⟩ }

theorem witness_PortsTakeHoldsAndReleases : (∀ o p, (ordered o p).awake ∧ (∀ l, ((ordered o p).feed (feedOf l)).orders = [o] ∧
    ((ordered o p).port l).state = p)) := fun _ _ => ⟨rfl, fun l => by cases l <;> exact ⟨rfl, rfl⟩⟩

theorem witness_EventsEnterOrSetOvf : let e : EventRecord := ⟨.lineDetached .fp, 0⟩
    ({ config with events := List.replicate 31 e } : State).events.length < 32 ∧
    32 ≤ ({ config with events := List.replicate 32 e } : State).events.length := by decide

theorem witness_WatchEntriesReport : config.operating = .config ∧ running.operating = .run := ⟨rfl, rfl⟩

/-- A selector of 15, GOOD, in signal 95. -/
def selected : State := { running with image := running.image.set 95 ⟨15, .good, 0, none⟩ }

theorem witness_SignalAddressesResolve : selected.resolve ⟨64, some 95, .x2⟩ = some 94 ∧ selected.resolve ⟨64, some 95, .x4⟩ = none ∧
    selected.resolve ⟨96, none, .x1⟩ = none ∧ selected.resolve ⟨95, none, .x1⟩ = some 95 := by decide +kernel

theorem witness_BuiltFieldsObeyGateAndQuality : let run := [Placement.mk .outbound 0 8 false ⟨95, none, .x1⟩ none none 3,
      Placement.mk .outbound 8 8 false ⟨95, none, .x1⟩ none (some 0) 3]
    (run.filter fun p => p.direction == .outbound).Pairwise (fun p q => p.offset + p.width ≤ q.offset ∨ q.offset + q.width ≤ p.offset) ∧
    selected.build run 2 = [15, 3] := by decide +kernel

theorem witness_ConversionRoundsAndSaturates : let c : Conversion := ⟨true, 0, 1, 0, 0, -5, 5⟩
    c.lo ≤ c.hi ∧ signalRange c.lo ∧ signalRange c.hi ∧ c.apply (-6) = (-5, true) ∧ c.apply (-5) = (-5, false) ∧ c.apply 5 = (5, false) ∧
    c.apply 6 = (5, true) := by unfold signalRange; decide

theorem witness_FieldsPackAndUnpack : (-(2 ^ (12 - 1)) : Int) ≤ -605 ∧ (-605 : Int) < 2 ^ (12 - 1) ∧ (3491 : Int) < 2 ^ 12 := by decide

theorem witness_SentFramesAreJudgedGood : frameWithinLimit (frame .data (List.replicate 16 0)) = true ∧
    frameWithinLimit (frame .mgmt (List.replicate 48 0)) = true := by decide

theorem witness_ReceptionsFailAtTheirFirstStep : frameWithinLimit (frame .poll []) = true ∧ (0xC2 : Byte) ≠ 0xC3 ∧
    6 ≤ (0xC0 : Byte).toNat / 32 ∧ kindOfCode ((0xBF : Byte).toNat / 32) = some .mgmtReply ∧ kindLimit .mgmtReply < (49 : Byte).toNat ∧
    kindLimit .poll < (1 : Byte).toNat ∧ (frameChars (frame .poll [])).length = 6 := by decide +kernel

/-! ### A state that satisfies the invariant -/

/-- The part of `cycling`, its Spreader Port in slot 1's window, with two commands waiting. -/
def queued : State := (inTurn (.window 1) cycling).withPending [.ageTimerExpiry, .sweep]

theorem queued_image : ImageInv queued :=
  ⟨fun i => by have h : queued.image.get i = ⟨0, .absent, 65535, none⟩ := Tab.get_fill _ i
               rw [h]; exact ⟨by unfold signalRange; decide, by decide, by simp⟩,
   by unfold signalRange; decide +kernel, by decide +kernel⟩

theorem queued_counters : CountersInv queued :=
  ⟨fun l => by cases l <;> decide, fun l => by cases l <;> decide, fun l => by cases l <;> decide, by decide⟩

theorem queued_ports : PortInv queued :=
  ⟨by decide, by decide, by decide, fun l => by cases l <;> decide, fun l => by cases l <;> decide, fun l => by cases l <;> decide, by decide, by decide⟩

theorem queued_slots : SlotInv queued where
  limits := by decide +kernel
  inactive e h := (by decide +kernel : ∀ e : MasterIx, (∀ k, queued.activeEntry .sp k ≠ some e ∧ queued.activeEntry .cp k ≠ some e) ∨
    (queued.slotRec e).enabled = false → queued.masterRt.get e = .idle) e (h.imp_left fun h k => ⟨h .sp k, h .cp k⟩)
  outbound l k e _ := (by decide +kernel : ∀ e : MasterIx, (queued.slotRec e).enabled = true → (queued.slotRec e).direction = .outbound →
    (queued.masterRt.get e).status = .live ∧ (queued.masterRt.get e).misses = 0) e
  inbound l k e _ h d := by
    have : e = 1 ∨ e = 65 := (by decide +kernel : ∀ e : MasterIx, (queued.slotRec e).enabled = true →
      (queued.slotRec e).direction = .inbound → e = 1 ∨ e = 65) e h d
    obtain rfl | rfl := this
    · exact (by decide +kernel : (queued.masterRt.get 1).misses < (queued.slotRec 1).missLimit)
    · exact (by decide +kernel : (queued.masterRt.get 65).misses = 0)
  armed := by decide +kernel
  inTurns l k h := by
    cases l
    · obtain rfl : 1 = k := Option.some.inj h
      exact ⟨1, by decide +kernel⟩
    · exact absurd h (by simp [queued, inTurn, cycling, running, config, State.withPending, State.port, Turn.inSlot, State.reset,
        State.powerOn, MasterPort.powerOn])
  outTurns l k h := by
    cases l <;> exact absurd h (by simp [queued, inTurn, cycling, running, config, State.withPending, State.port, Turn.outSlot,
      State.reset, State.powerOn, MasterPort.powerOn])

theorem queued_gates : GateInv queued :=
  ⟨by decide +kernel, by decide +kernel, by decide +kernel, by decide +kernel, fun g => by
    have h : queued.gateRt.get g = .closed := Tab.get_fill _ g
    rw [h]; rfl⟩

theorem queued_feeds : FeedInv queued :=
  ⟨by decide +kernel, by decide +kernel, fun d => by
    have h : queued.feedRt.get d = .fresh := Tab.get_fill _ d
    rw [h]; rfl⟩

theorem queued_trolley : TrolleyInv queued :=
  ⟨fun c => by
    have h : queued.tio.channels.get c = ⟨.normal, 0, 0⟩ := Tab.get_fill _ c
    rw [h]; exact Nat.zero_le _, by decide +kernel, by decide +kernel⟩

theorem queued_festoon : FestoonInv queued :=
  ⟨fun k h => by
    have e : queued.fp.slots.get k = .idle := Tab.get_fill _ k
    rw [e] at h; exact absurd h (by decide), nofun, nofun, nofun, nofun, nofun⟩

theorem queued_quality : QualityInv queued :=
  have h : ∀ i, queued.image.get i = ⟨0, .absent, 65535, none⟩ := Tab.get_fill _
  ⟨fun _ i _ => by rw [h i]; exact ⟨nofun, fun _ => .inl rfl, fun _ _ => rfl⟩, fun _ i _ => by rw [h i]; exact ⟨nofun, fun _ => .inl rfl⟩,
    fun _ i _ => by rw [h i]; exact ⟨nofun, nofun⟩, fun _ i _ => .inl (by rw [h i]), fun _ i _ => .inr (by rw [h i]), fun _ i _ => h i,
    fun i _ => .inr (by rw [h i]), nofun⟩

/-- Every statement about what a step keeps: a state that satisfies the invariant and whose step answers a next state. -/
theorem witness_StepKeepsTheInvariant : queued.Inv ∧ ∃ t, step queued = .next t :=
  ⟨⟨queued_image, queued_counters, queued_ports, queued_slots, queued_gates, queued_feeds, queued_trolley,
    ⟨nofun, nofun, nofun, nofun, nofun, nofun, nofun⟩,
    queued_festoon, ⟨fun _ => rfl, fun _ => by decide +kernel⟩, queued_quality⟩, _, rfl⟩
end Sys2Proof.Tests
end

/-! # Proofs about fields, conversions and placements (R22, R23, R27 to R33, R36 to R39)

The bits of fields and the numbers they carry come first. Conversions, the building of a payload and the applying of one follow, and
each section ends with the obligation it settles. -/

section
namespace Sys2Proof.Machine

/-! ### The bits of a field (R22) -/

theorem testBit_extractField (payload offset width i : Nat) :
    (extractField payload offset width).testBit i = (decide (i < width) && payload.testBit (offset + i)) := by
  rw [extractField, Nat.testBit_mod_two_pow, Nat.testBit_div_two_pow, Nat.add_comm i]

/-- An insertion stacks three parts: the payload above the field, the pattern, and the payload below the field. -/
theorem insertField_eq_stack (payload offset width pattern : Nat) : insertField payload offset width pattern =
    2 ^ offset * (2 ^ width * (payload / 2 ^ (offset + width)) + pattern % 2 ^ width) + payload % 2 ^ offset := by
  rw [insertField, Nat.pow_add]
  ring

theorem testBit_insertField (payload offset width pattern b : Nat) : (insertField payload offset width pattern).testBit b =
    if offset ≤ b ∧ b < offset + width then pattern.testBit (b - offset) else payload.testBit b := by
  rw [insertField_eq_stack, Nat.testBit_two_pow_mul_add _ (Nat.mod_lt _ (Nat.two_pow_pos offset))]
  by_cases below : b < offset
  · simp [below, Nat.testBit_mod_two_pow]
  · rw [if_neg below, Nat.testBit_two_pow_mul_add _ (Nat.mod_lt _ (Nat.two_pow_pos width))]
    by_cases inside : b - offset < width
    · rw [if_pos inside, if_pos (by omega), Nat.testBit_mod_two_pow, decide_eq_true inside, Bool.true_and]
    · rw [if_neg inside, if_neg (by omega), Nat.testBit_div_two_pow]
      congr 1
      omega

theorem extractField_insertField_same (payload offset width pattern : Nat) :
    extractField (insertField payload offset width pattern) offset width = pattern % 2 ^ width := by
  refine Nat.eq_of_testBit_eq fun i => ?_
  rw [testBit_extractField, testBit_insertField, Nat.testBit_mod_two_pow]
  by_cases h : i < width <;> simp [h]

theorem extractField_insertField_of_disjoint (payload pattern : Nat) {offset width offset' width' : Nat}
    (h : offset + width ≤ offset' ∨ offset' + width' ≤ offset) :
    extractField (insertField payload offset' width' pattern) offset width = extractField payload offset width := by
  refine Nat.eq_of_testBit_eq fun i => ?_
  rw [testBit_extractField, testBit_extractField, testBit_insertField]
  by_cases hi : i < width
  · rw [if_neg (by omega)]
  · simp [hi]

/-- R22: payload bit `b` is bit `b mod 8` of byte `b / 8`. -/
theorem testBit_leNat (bs : List Byte) (b : Nat) : (leNat bs).testBit b = (bs.getD (b / 8) 0).getLsbD (b % 8) := by
  induction bs generalizing b with
  | nil => simp [leNat]
  | cons x bs ih =>
    have stack : leNat (x :: bs) = 2 ^ 8 * leNat bs + x.toNat := Nat.add_comm _ _
    rw [stack, Nat.testBit_two_pow_mul_add _ x.isLt]
    by_cases hb : b < 8
    · rw [if_pos hb, Nat.div_eq_of_lt hb, Nat.mod_eq_of_lt hb, List.getD_cons_zero, BitVec.testBit_toNat]
    · have hq : b / 8 = (b - 8) / 8 + 1 := by omega
      have hr : b % 8 = (b - 8) % 8 := by omega
      rw [if_neg hb, ih, hq, hr, List.getD_cons_succ]

/-! ### The number a field carries (R23) -/

theorem fieldNumber_unsigned (width pattern : Nat) : fieldNumber false width pattern = pattern := rfl

theorem testBit_top_iff {width pattern : Nat} (hw : 1 ≤ width) (hp : pattern < 2 ^ width) :
    pattern.testBit (width - 1) = true ↔ 2 ^ (width - 1) ≤ pattern := by
  have double : 2 * 2 ^ (width - 1) = 2 ^ width := mul_pow_sub_one (by omega) 2
  constructor
  · exact Nat.ge_two_pow_of_testBit
  · intro high
    obtain ⟨rest, rfl⟩ := Nat.exists_eq_add_of_le high
    rw [Nat.testBit_two_pow_add_eq, Nat.testBit_lt_two_pow (by omega), Bool.not_false]

theorem fieldNumber_signed {width pattern : Nat} (hw : 1 ≤ width) (hp : pattern < 2 ^ width) :
    fieldNumber true width pattern = if pattern.testBit (width - 1) then (pattern : Int) - 2 ^ width else pattern := by
  simp only [fieldNumber, Bool.true_and, decide_eq_true_eq, testBit_top_iff hw hp]

theorem cast_fieldPattern (width : Nat) (n : Int) : (fieldPattern width n : Int) = n % 2 ^ width :=
  Int.toNat_of_nonneg (Int.emod_nonneg _ (by positivity))

theorem fieldPattern_lt (width : Nat) (n : Int) : fieldPattern width n < 2 ^ width := by
  have h : (fieldPattern width n : Int) < 2 ^ width := by
    rw [cast_fieldPattern]
    exact Int.emod_lt_of_pos _ (by positivity)
  exact_mod_cast h

theorem fieldNumber_fieldPattern_unsigned {width : Nat} {n : Int} (h0 : 0 ≤ n) (h1 : n < 2 ^ width) :
    fieldNumber false width (fieldPattern width n) = n := by
  rw [fieldNumber_unsigned, cast_fieldPattern, Int.emod_eq_of_lt h0 h1]

/-- Two's complement: a number of the SIGNED range is its pattern where it is not negative, and its pattern less 2^w otherwise. -/
theorem fieldNumber_fieldPattern_signed {width : Nat} {n : Int} (hw : 1 ≤ width) (h0 : -(2 ^ (width - 1)) ≤ n)
    (h1 : n < 2 ^ (width - 1)) : fieldNumber true width (fieldPattern width n) = n := by
  have double : (2 : Int) * 2 ^ (width - 1) = 2 ^ width := mul_pow_sub_one (by omega) 2
  have top : 2 ^ (width - 1) ≤ fieldPattern width n ↔ (2 : Int) ^ (width - 1) ≤ n % 2 ^ width := by
    rw [← cast_fieldPattern]
    exact_mod_cast Iff.rfl
  simp only [fieldNumber, Bool.true_and, decide_eq_true_eq, top, cast_fieldPattern]
  by_cases negative : n < 0
  · have wrapped : n % 2 ^ width = n + 2 ^ width := by
      rw [← Int.add_emod_right, Int.emod_eq_of_lt (by omega) (by omega)]
    rw [wrapped, if_pos (by omega)]
    omega
  · rw [Int.emod_eq_of_lt (by omega) (by omega), if_neg (by omega)]

/-- A pattern written into a payload and read back. -/
theorem extractField_insertField_fieldPattern (payload offset width : Nat) (n : Int) :
    extractField (insertField payload offset width (fieldPattern width n)) offset width = fieldPattern width n := by
  rw [extractField_insertField_same, Nat.mod_eq_of_lt (fieldPattern_lt width n)]

/-- Settles O50: the bits of extraction and insertion, the numbers patterns carry, and the round trip from both. -/
theorem fieldsPackAndUnpack : Obligations.FieldsPackAndUnpack := by
  intro payload offset width
  refine ⟨testBit_extractField payload offset width, testBit_insertField payload offset width, testBit_leNat,
    fieldNumber_unsigned width, fun hw _ => fieldNumber_signed hw, cast_fieldPattern width, fun hw n => ?_⟩
  rw [extractField_insertField_fieldPattern]
  exact ⟨fieldNumber_fieldPattern_unsigned, fieldNumber_fieldPattern_signed hw⟩

end Sys2Proof.Machine
end

section
namespace Sys2Proof.Machine

/-! ### Rounding (R36) -/

@[simp] theorem roundShift_zero (p : Int) : roundShift p 0 = p := rfl

theorem roundShift_of_pos (p : Int) {s : Nat} (hs : 1 ≤ s) : roundShift p s = (p + 2 ^ (s - 1)) / 2 ^ s := by
  rw [roundShift, if_neg (by omega)]

/-- The rounded number lies at most half a divisor above `p`, and less than half a divisor below it. -/
theorem roundShift_bounds (p : Int) {s : Nat} (hs : 1 ≤ s) :
    roundShift p s * 2 ^ s - p ≤ 2 ^ (s - 1) ∧ p - roundShift p s * 2 ^ s < 2 ^ (s - 1) := by
  have double : (2 : Int) * 2 ^ (s - 1) = 2 ^ s := mul_pow_sub_one (by omega) 2
  have division := Int.emod_add_mul_ediv (p + 2 ^ (s - 1)) (2 ^ s)
  have low : 0 ≤ (p + 2 ^ (s - 1)) % 2 ^ s := Int.emod_nonneg _ (by positivity)
  have high : (p + 2 ^ (s - 1)) % 2 ^ s < 2 ^ s := Int.emod_lt_of_pos _ (by positivity)
  rw [roundShift_of_pos p hs, Int.mul_comm]
  omega

/-- The bounds single out one number, so a number that meets them is the rounded one. -/
theorem roundShift_eq_of_bounds {p n : Int} {s : Nat} (hs : 1 ≤ s) (above : n * 2 ^ s - p ≤ 2 ^ (s - 1))
    (below : p - n * 2 ^ s < 2 ^ (s - 1)) : roundShift p s = n := by
  have double : (2 : Int) * 2 ^ (s - 1) = 2 ^ s := mul_pow_sub_one (by omega) 2
  rw [roundShift_of_pos p hs, Int.ediv_eq_iff_of_pos (by positivity)]
  constructor <;> linarith

theorem roundShift_half {p n : Int} {s : Nat} (hs : 1 ≤ s) (half : 2 * p = (2 * n + 1) * 2 ^ s) : roundShift p s = n + 1 := by
  have double : (2 : Int) * 2 ^ (s - 1) = 2 ^ s := mul_pow_sub_one (by omega) 2
  have pos : (0 : Int) < 2 ^ (s - 1) := by positivity
  refine roundShift_eq_of_bounds hs ?_ ?_ <;> linarith

/-- Another multiple of 2^s is a whole divisor away from the rounded one, so it is no nearer to `p`. -/
theorem roundShift_nearest (p n : Int) {s : Nat} (hs : 1 ≤ s) : (roundShift p s * 2 ^ s - p).natAbs ≤ (n * 2 ^ s - p).natAbs := by
  obtain ⟨above, below⟩ := roundShift_bounds p hs
  have double : (2 : Int) * 2 ^ (s - 1) = 2 ^ s := mul_pow_sub_one (by omega) 2
  have pos : (0 : Int) ≤ 2 ^ s := by positivity
  rcases lt_trichotomy n (roundShift p s) with h | h | h
  · have step : (n + 1) * 2 ^ s ≤ roundShift p s * 2 ^ s := Int.mul_le_mul_of_nonneg_right h pos
    rw [Int.add_mul] at step
    omega
  · rw [h]
  · have step : (roundShift p s + 1) * 2 ^ s ≤ n * 2 ^ s := Int.mul_le_mul_of_nonneg_right h pos
    rw [Int.add_mul] at step
    omega

/-! ### Saturation (R37) -/

theorem Conversion.apply_eq (c : Conversion) (r : Int) :
    c.apply r = (clampInt c.lo c.hi (c.raw r), decide (c.raw r < c.lo) || decide (c.hi < c.raw r)) := rfl

theorem Conversion.apply_of_lt {c : Conversion} {r : Int} (h : c.raw r < c.lo) : c.apply r = (c.lo, true) := by
  simp [Conversion.apply_eq, clampInt, h]

theorem Conversion.apply_of_gt {c : Conversion} {r : Int} (order : c.lo ≤ c.hi) (h : c.hi < c.raw r) : c.apply r = (c.hi, true) := by
  simp [Conversion.apply_eq, clampInt, h, show ¬c.raw r < c.lo by omega]

theorem Conversion.apply_of_mem {c : Conversion} {r : Int} (h1 : c.lo ≤ c.raw r) (h2 : c.raw r ≤ c.hi) : c.apply r = (c.raw r, false) := by
  simp [Conversion.apply_eq, clampInt_of_mem h1 h2, h1, h2]

theorem Conversion.apply_of_lo_eq_hi {c : Conversion} (h : c.lo = c.hi) (r : Int) :
    (c.apply r).1 = c.lo ∧ ((c.apply r).2 = true ↔ c.raw r ≠ c.lo) := by
  obtain ⟨least, most⟩ := Conversion.apply_mem h.le r
  refine ⟨by omega, ?_⟩
  rw [Conversion.apply_eq, Bool.or_eq_true, decide_eq_true_eq, decide_eq_true_eq, ← h]
  exact lt_or_lt_iff_ne

/-! ### Conversion in the two directions (R38, R39) -/

theorem Tables.inValue_of_some (t : Tables) {p : Placement} {k : Fin 64} (h : p.conversion = some k) {payload : Nat} {r : Int}
    (hr : r = fieldNumber p.signed p.width (extractField payload p.offset p.width)) :
    t.inValue p payload =
      (((t.conversions.get k).apply r).1, if ((t.conversions.get k).apply r).2 then .clamped else .good) := by
  simp only [Tables.inValue, h, hr]

theorem Tables.inValue_of_none (t : Tables) {p : Placement} (h : p.conversion = none) {payload : Nat} {r : Int}
    (hr : r = fieldNumber p.signed p.width (extractField payload p.offset p.width)) :
    t.inValue p payload = (clampInt (-32768) 32767 r, if r < -32768 ∨ 32767 < r then .clamped else .good) := by
  simp only [Tables.inValue, h, hr, Bool.or_eq_true, decide_eq_true_eq]

theorem Tables.outValue_of_some (t : Tables) {p : Placement} {k : Fin 64} (h : p.conversion = some k) (v : Int) :
    t.outValue p v = ((t.conversions.get k).apply v).1 := by
  simp only [Tables.outValue, h]

/-- Settles O49: rounding from its bounds, saturation by the place of the unsaturated result, and both directions by their equations. -/
theorem conversionRoundsAndSaturates : Obligations.ConversionRoundsAndSaturates := by
  refine ⟨⟨roundShift_zero, fun p s hs _ => ⟨?_, fun n => roundShift_nearest p n hs, fun _ => roundShift_half hs⟩, by decide⟩,
    fun c r => ⟨Conversion.apply_of_lt, Conversion.apply_of_gt, Conversion.apply_of_mem, fun order => Conversion.apply_mem order r,
      fun order hlo hhi => ?_, fun h => Conversion.apply_of_lo_eq_hi h r, ?_, ?_⟩⟩
  · rw [roundShift_of_pos p hs, Int.fdiv_eq_ediv_of_nonneg _ (by positivity)]
  · obtain ⟨least, most⟩ := Conversion.apply_mem order r
    exact ⟨hlo.1.trans least, most.trans hhi.2⟩
  · rintro t p payload k hk rfl hr
    exact t.inValue_of_some hk hr
  · rintro t p k hk rfl
    exact t.outValue_of_some hk r

end Sys2Proof.Machine
end

section
namespace Sys2Proof.Machine

/-! ### Fields inserted one after the other (R30) -/

/-- Two fields of a payload that share no bit. -/
def Placement.Apart (p q : Placement) : Prop := p.offset + p.width ≤ q.offset ∨ q.offset + q.width ≤ p.offset

/-- The payload with the field of every placement of a list written, each with the pattern `pattern` gives it. -/
def insertAll (pattern : Placement → Nat) (ps : List Placement) (payload : Nat) : Nat :=
  ps.foldl (fun n p => insertField n p.offset p.width (pattern p)) payload

@[simp] theorem insertAll_nil (pattern : Placement → Nat) (payload : Nat) : insertAll pattern [] payload = payload := rfl

@[simp] theorem insertAll_cons (pattern : Placement → Nat) (p : Placement) (ps : List Placement) (payload : Nat) :
    insertAll pattern (p :: ps) payload = insertAll pattern ps (insertField payload p.offset p.width (pattern p)) := rfl

/-- A built payload is the OUT fields inserted into zero. -/
theorem State.buildNat_eq_insertAll (s : State) (run : List Placement) :
    s.buildNat run = insertAll s.fieldOf (run.filter fun p => p.direction == .outbound) 0 := rfl

theorem mem_outbound {run : List Placement} {p : Placement} :
    p ∈ (run.filter fun p => p.direction == .outbound) ↔ p ∈ run ∧ p.direction = .outbound := by simp

theorem testBit_insertAll_of_outside (pattern : Placement → Nat) {ps : List Placement} {b : Nat}
    (outside : ∀ p ∈ ps, b < p.offset ∨ p.offset + p.width ≤ b) (payload : Nat) :
    (insertAll pattern ps payload).testBit b = payload.testBit b := by
  induction ps generalizing payload with
  | nil => rfl
  | cons p ps ih =>
    have hp := outside p List.mem_cons_self
    rw [insertAll_cons, ih fun q hq => outside q (List.mem_cons_of_mem _ hq), testBit_insertField, if_neg (by omega)]

theorem extractField_insertAll_of_apart (pattern : Placement → Nat) {p : Placement} {ps : List Placement}
    (apart : ∀ q ∈ ps, p.Apart q) (payload : Nat) :
    extractField (insertAll pattern ps payload) p.offset p.width = extractField payload p.offset p.width := by
  induction ps generalizing payload with
  | nil => rfl
  | cons q ps ih =>
    rw [insertAll_cons, ih fun q hq => apart q (List.mem_cons_of_mem _ hq),
      extractField_insertField_of_disjoint _ _ (apart q List.mem_cons_self)]

/-- Of fields that share no bit each keeps the pattern written into it: the later ones do not touch it. -/
theorem extractField_insertAll_of_mem (pattern : Placement → Nat) {ps : List Placement} (apart : ps.Pairwise Placement.Apart)
    {p : Placement} (hp : p ∈ ps) (payload : Nat) :
    extractField (insertAll pattern ps payload) p.offset p.width = pattern p % 2 ^ p.width := by
  induction ps generalizing payload with
  | nil => cases hp
  | cons q ps ih =>
    obtain ⟨first, rest⟩ := List.pairwise_cons.mp apart
    rw [insertAll_cons]
    rcases List.mem_cons.mp hp with rfl | later
    · rw [extractField_insertAll_of_apart pattern first, extractField_insertField_same]
    · exact ih rest later _

/-! ### The pattern an OUT field takes (R31 to R33, R39) -/

theorem State.gatePasses_iff (s : State) (p : Placement) :
    s.gatePasses p = true ↔ ∀ g, p.gate = some g → (s.gateRt.get g).state = .opened := by
  unfold State.gatePasses
  cases p.gate with
  | none => simp
  | some g => simp

/-- R31, R32: the gate of a placement passes and its signal's view is usable. -/
def State.Sends (s : State) (p : Placement) : Prop :=
  (∀ g, p.gate = some g → (s.gateRt.get g).state = .opened) ∧
    ((s.read p.addr).quality = .forced ∨ (s.read p.addr).quality = .stored .good ∨ (s.read p.addr).quality = .stored .clamped)

theorem State.sends_iff (s : State) (p : Placement) :
    (s.gatePasses p && (s.read p.addr).quality.usable) = true ↔ s.Sends p := by
  rw [Bool.and_eq_true, s.gatePasses_iff, ViewQuality.usable_iff, State.Sends]

theorem State.fieldOf_of_not_sends {s : State} {p : Placement} (h : ¬s.Sends p) : s.fieldOf p = p.safe.toNat :=
  if_neg (mt (s.sends_iff p).mp h)

theorem State.fieldOf_of_sends {s : State} {p : Placement} (h : s.Sends p) :
    s.fieldOf p = fieldPattern p.width (fitNumber p.signed p.width (s.tables.outValue p (s.read p.addr).value)) :=
  if_pos ((s.sends_iff p).mpr h)

theorem fitNumber_eq (signed : Bool) (width : Nat) (v : Int) : fitNumber signed width v =
    if signed then max (-(2 ^ (width - 1))) (min (2 ^ (width - 1) - 1) v) else max 0 (min (2 ^ width - 1) v) := by
  have half : (0 : Int) < 2 ^ (width - 1) := by positivity
  have whole : (0 : Int) < 2 ^ width := by positivity
  rw [fitNumber, clampInt_eq (by omega), clampInt_eq (by omega)]

/-- A number fitted to a field is carried by its pattern. -/
theorem fieldNumber_fitNumber (signed : Bool) {width : Nat} (hw : 1 ≤ width) (v : Int) :
    fieldNumber signed width (fieldPattern width (fitNumber signed width v)) = fitNumber signed width v := by
  obtain ⟨inSigned, inUnsigned⟩ := fitNumber_mem signed (width := width) v
  cases signed with
  | false =>
    obtain ⟨least, most⟩ := inUnsigned rfl
    exact fieldNumber_fieldPattern_unsigned least (by omega)
  | true =>
    obtain ⟨least, most⟩ := inSigned rfl
    exact fieldNumber_fieldPattern_signed hw least (by omega)

/-! ### The bytes of a built payload (R30) -/

theorem testBit_build (s : State) (run : List Placement) {len b : Nat} (hb : b < 8 * len) :
    ((s.build run len).getD (b / 8) 0).getLsbD (b % 8) = (s.buildNat run).testBit b := by
  have room : (256 : Nat) ^ len = 2 ^ (8 * len) := (Nat.pow_mul 2 8 len).symm
  rw [← testBit_leNat, State.build, leNat_leBytes, room, Nat.testBit_mod_two_pow, decide_eq_true hb, Bool.true_and]

/-- Settles O48: each OUT field keeps the pattern inserted for it, which is its safe value or the pattern of the fitted number. -/
theorem builtFieldsObeyGateAndQuality : Obligations.BuiltFieldsObeyGateAndQuality := by
  intro s run apart
  refine ⟨fun p hp hout => ?_, fun b outside => ?_, fun len => ⟨s.build_length run len, fun b => testBit_build s run⟩⟩
  · have field : extractField (s.buildNat run) p.offset p.width = s.fieldOf p % 2 ^ p.width :=
      extractField_insertAll_of_mem s.fieldOf apart (mem_outbound.mpr ⟨hp, hout⟩) 0
    refine ⟨fun h => ?_, fun h hw => ?_⟩
    · rw [field, State.fieldOf_of_not_sends h]
    · rw [field, State.fieldOf_of_sends h, Nat.mod_eq_of_lt (fieldPattern_lt _ _), fieldNumber_fitNumber _ hw]
      exact fitNumber_eq _ _ _
  · rw [s.buildNat_eq_insertAll, testBit_insertAll_of_outside, Nat.zero_testBit]
    intro p hp
    obtain ⟨mem, hout⟩ := mem_outbound.mp hp
    exact outside p mem hout

end Sys2Proof.Machine
end

section
namespace Sys2Proof.Machine

/-! ### One placement applied (R28, R29) -/

/-- What one IN placement makes of the record it names, from a payload of `len` bytes. -/
def Tables.applied (t : Tables) (payload len : Nat) (p : Placement) (r : SigRec) : SigRec :=
  if p.offset + p.width ≤ 8 * len then r.written (t.inValue p payload).1 (t.inValue p payload).2 else r.marked (.suspect .short)

theorem Work.applyOne_image_self (w : Work) (payload len : Nat) (p : Placement) :
    (w.applyOne payload len p).st.image.get p.addr.base = w.st.tables.applied payload len p (w.st.image.get p.addr.base) := by
  unfold Work.applyOne Tables.applied
  split
  · rw [Work.writeField, Work.changeAt_image, if_pos rfl]
  · rw [Work.changeAt_image, if_pos rfl]

theorem Work.applyOne_tables (w : Work) (payload len : Nat) (p : Placement) : (w.applyOne payload len p).st.tables = w.st.tables := by
  rw [(w.applyOne_frame payload len p).1]

/-! ### A run applied (R27) -/

/-- Of placements that name distinct records each has its own effect, on the record as it was before the run. -/
theorem Work.foldl_applyOne_image (payload len : Nat) {ps : List Placement} (distinct : (ps.map fun p => p.addr.base).Nodup)
    {p : Placement} (hp : p ∈ ps) (w : Work) : (ps.foldl (Work.applyOne payload len) w).st.image.get p.addr.base =
      w.st.tables.applied payload len p (w.st.image.get p.addr.base) := by
  induction ps generalizing w with
  | nil => cases hp
  | cons q ps ih =>
    obtain ⟨fresh, rest⟩ := List.nodup_cons.mp distinct
    have unnamed : ∀ r ∈ ps, q.addr.base ≠ r.addr.base := fun r hr e => fresh (List.mem_map.mpr ⟨r, hr, e.symm⟩)
    obtain ⟨-, kept, -⟩ := w.applyOne_frame payload len q
    rw [List.foldl_cons]
    rcases List.mem_cons.mp hp with rfl | later
    · obtain ⟨-, untouched, -⟩ := Work.foldl_applyOne_frame payload len ps (w.applyOne payload len p)
      rw [untouched _ unnamed, Work.applyOne_image_self]
    · rw [ih rest later, Work.applyOne_tables, kept _ (unnamed p later).symm]

theorem mem_inbound {run : List Placement} {p : Placement} :
    p ∈ (run.filter fun p => p.direction == .inbound) ↔ p ∈ run ∧ p.direction = .inbound := by simp

theorem Work.applyRun_image {run : List Placement}
    (distinct : ((run.filter fun p => p.direction == .inbound).map fun p => p.addr.base).Nodup) {p : Placement} (hp : p ∈ run)
    (hin : p.direction = .inbound) (bytes : List Byte) (w : Work) : (w.applyRun run bytes).st.image.get p.addr.base =
      w.st.tables.applied (leNat bytes) bytes.length p (w.st.image.get p.addr.base) :=
  Work.foldl_applyOne_image _ _ distinct (mem_inbound.mpr ⟨hp, hin⟩) w

theorem Work.applyRun_image_of_unnamed (w : Work) {run : List Placement} {i : SigIx}
    (unnamed : ∀ p ∈ run, p.direction = .inbound → p.addr.base ≠ i) (bytes : List Byte) :
    (w.applyRun run bytes).st.image.get i = w.st.image.get i := by
  obtain ⟨-, kept, -⟩ := Work.foldl_applyOne_frame (leNat bytes) bytes.length (run.filter fun p => p.direction == .inbound) w
  refine kept i fun p hp => ?_
  obtain ⟨mem, hin⟩ := mem_inbound.mp hp
  exact (unnamed p mem hin).symm

/-- The records touched are those touched before and those the IN placements name. -/
theorem Work.applyRun_touched_iff (w : Work) (run : List Placement) (bytes : List Byte) (i : SigIx) :
    (w.applyRun run bytes).touched i = true ↔ w.touched i = true ∨ ∃ p ∈ run, p.direction = .inbound ∧ p.addr.base = i := by
  obtain ⟨-, -, touched⟩ := Work.foldl_applyOne_frame (leNat bytes) bytes.length (run.filter fun p => p.direction == .inbound) w
  rw [Work.applyRun, touched i, Bool.or_eq_true, List.any_eq_true]
  simp only [mem_inbound, decide_eq_true_eq, and_assoc, eq_comm (a := i)]

/-- Settles O24: each named record takes its own placement's effect, and the run's frame gives the rest. -/
theorem placementsApplyTheirFields : Obligations.PlacementsApplyTheirFields := by
  intro s run bytes distinct
  refine ⟨s.work.applyRun_frame run bytes, fun p hp hin => ?_, fun i unnamed => ?_⟩
  · have record := Work.applyRun_image distinct hp hin bytes s.work
    refine ⟨(s.work.applyRun_touched_iff run bytes _).mpr (.inr ⟨p, hp, hin, rfl⟩), fun short => ?_, fun received => ?_⟩
    · rw [record, Tables.applied, if_neg (by omega)]
      rfl
    · rw [record, Tables.applied, if_pos received]
      cases conversion : p.conversion with
      | none =>
        rw [Tables.inValue_of_none _ conversion rfl]
        simp only [decide_eq_true_eq]
        rfl
      | some c =>
        rw [Tables.inValue_of_some _ conversion rfl]
        rfl
  · refine ⟨s.work.applyRun_image_of_unnamed unnamed bytes, Bool.eq_false_iff.mpr fun touched => ?_⟩
    obtain before | ⟨p, hp, hin, names⟩ := (s.work.applyRun_touched_iff run bytes i).mp touched
    · exact Bool.noConfusion before
    · exact unnamed p hp hin names

end Sys2Proof.Machine
end

/-! # Proofs about gates and their terms (R43 to R49, R52 to R56, R58) -/

section
namespace Sys2Proof.Machine

/-! ### The transitions of a gate (R52 to R55) -/

/-- A gate in CLOSED whose raw result is true opens at once exactly where its threshold is 1. -/
theorem gateStep_closed_true {c : Gate} (hk : 1 ≤ c.k) (rearm : Bool) (count : Nat) :
    gateStep c true rearm .closed count = (if c.k = 1 then .opened else .rising, 1) := by
  simp only [gateStep, if_true, show c.k ≤ 1 ↔ c.k = 1 by omega]

/-- A gate in RISING whose raw result is true counts on, and opens as the count reaches its threshold. -/
theorem gateStep_rising_true {c : Gate} {count : Nat} (below : count < c.k) (rearm : Bool) :
    gateStep c true rearm .rising count = (if count + 1 = c.k then .opened else .rising, count + 1) := by
  by_cases h : count + 1 = c.k
  · simp [gateStep, h]
  · simp [gateStep, h, show ¬c.k ≤ count + 1 by omega]

@[simp] theorem gateStep_closed_false (c : Gate) (rearm : Bool) (count : Nat) : gateStep c false rearm .closed count = (.closed, 0) := rfl

@[simp] theorem gateStep_rising_false (c : Gate) (rearm : Bool) (count : Nat) : gateStep c false rearm .rising count = (.closed, 0) := rfl

@[simp] theorem gateStep_opened_true (c : Gate) (rearm : Bool) (count : Nat) : gateStep c true rearm .opened count = (.opened, c.k) := rfl

@[simp] theorem gateStep_opened_false (c : Gate) (rearm : Bool) (count : Nat) :
    gateStep c false rearm .opened count = (if c.latching then .locked else .closed, 0) := rfl

@[simp] theorem gateStep_locked (c : Gate) (raw rearm : Bool) (count : Nat) :
    gateStep c raw rearm .locked count = (if rearm then .closed else .locked, 0) := rfl

/-- Settles O40: the rows of CLOSED and RISING by their equations; the events by the states they name. -/
theorem gatesRiseOnSuccessiveSweeps : Obligations.GatesRiseOnSuccessiveSweeps := by
  intro g c rearm hk
  exact ⟨fun count => ⟨gateStep_closed_true hk rearm count, rfl⟩, fun count _ below => ⟨gateStep_rising_true below rearm, rfl⟩,
    rfl, rfl, rfl, rfl, rfl, rfl⟩

/-! ### Terms (R43 to R49) -/

theorem ViewQuality.acceptable_iff (q : ViewQuality) (forced : Bool) :
    q.acceptable forced = true ↔ q = .stored .good ∨ q = .stored .clamped ∨ (q = .forced ∧ forced = true) := by
  cases q with
  | forced => simp [ViewQuality.acceptable]
  | stored q => cases q <;> simp [ViewQuality.acceptable]

/-- A test inverted by negate is true exactly where the test and the absence of negate agree. -/
theorem bne_negate_iff (result negate : Bool) : (result != negate) = true ↔ (result = true ↔ negate = false) := by
  cases result <;> cases negate <;> decide

/-- The tests that compare a view's value with K (R44, R45). -/
def Test.comparesValue (test : Test) : Prop := test = .eq ∨ test = .ge ∨ test = .le ∨ test = .any ∨ test = .all

theorem State.termResult_of_comparesValue (s : State) (forced : Bool) {t : Term} (h : t.test.comparesValue) :
    s.termResult forced t = ((s.read t.addr).quality.acceptable forced && (compareTest t.test (s.read t.addr).value t.k != t.negate)) := by
  unfold State.termResult
  rcases h with h | h | h | h | h <;> rw [h]

/-- On an acceptable view a value test is its comparison, inverted by negate. -/
theorem State.termResult_of_acceptable {s : State} {forced : Bool} {t : Term} (h : t.test.comparesValue)
    (ha : (s.read t.addr).quality.acceptable forced = true) :
    s.termResult forced t = (compareTest t.test (s.read t.addr).value t.k != t.negate) := by
  rw [s.termResult_of_comparesValue forced h, ha, Bool.true_and]

theorem State.termResult_of_not_acceptable {s : State} {forced : Bool} {t : Term} (h : t.test.comparesValue)
    (ha : (s.read t.addr).quality.acceptable forced = false) : s.termResult forced t = false := by
  rw [s.termResult_of_comparesValue forced h, ha, Bool.false_and]

theorem State.termResult_fresh_iff (s : State) (forced : Bool) {t : Term} (h : t.test = .fresh) :
    s.termResult forced t = true ↔
      (((s.read t.addr).quality.acceptable forced = true ∧ (s.read t.addr).age ≤ t.k.toNat) ↔ t.negate = false) := by
  simp only [State.termResult, h, bne_negate_iff, Bool.and_eq_true, decide_eq_true_eq]

theorem State.savedOpen_iff (s : State) (k : BitVec 16) :
    s.savedOpen k = true ↔ ∃ h : k.toNat < 32, (s.gateRt.get ⟨k.toNat, h⟩).saved = .opened := by
  unfold State.savedOpen
  rw [Tab.get?_eq]
  by_cases h : k.toNat < 32
  · simp [h]
  · simp [h]

theorem State.termResult_gate_iff (s : State) (forced : Bool) {t : Term} (h : t.test = .gate) :
    s.termResult forced t = true ↔
      ((∃ h : t.k.toNat < 32, (s.gateRt.get ⟨t.k.toNat, h⟩).saved = .opened) ↔ t.negate = false) := by
  simp only [State.termResult, h, bne_negate_iff, s.savedOpen_iff]

theorem State.termResult_always (s : State) (forced : Bool) {t : Term} (h : t.test = .always) :
    s.termResult forced t = !t.negate := by
  simp only [State.termResult, h]

/-- R40: the terms of a gate are the entries of its run of eight that it uses. -/
theorem Tables.mem_gateTerms (t : Tables) {g : GateIx} (few : (t.gates.get g).termCount ≤ 8) (x : Term) : x ∈ t.gateTerms g ↔
    ∃ j : Fin 256, (g.val * 8 ≤ j.val ∧ j.val < g.val * 8 + (t.gates.get g).termCount) ∧ t.terms.get j = x := by
  simp only [Tables.gateTerms, List.mem_filterMap, List.mem_range]
  constructor
  · rintro ⟨k, hk, hx⟩
    have inside : g.val * 8 + k < 256 := by omega
    rw [Tab.get?_eq, dif_pos inside] at hx
    exact ⟨⟨g.val * 8 + k, inside⟩, by simp; omega, Option.some.inj hx⟩
  · rintro ⟨j, ⟨lo, hi⟩, rfl⟩
    refine ⟨j.val - g.val * 8, by omega, ?_⟩
    rw [Nat.add_sub_cancel' lo, Tab.get?_val]

/-- R49: the raw result is the AND of the terms the gate uses. -/
theorem State.rawResult_iff (s : State) {g : GateIx} (few : (s.tables.gates.get g).termCount ≤ 8) :
    s.rawResult g = true ↔ ∀ j : Fin 256, g.val * 8 ≤ j.val → j.val < g.val * 8 + (s.tables.gates.get g).termCount →
      s.termResult (s.tables.gates.get g).acceptForced (s.tables.terms.get j) = true := by
  simp only [State.rawResult, List.all_eq_true, Tables.mem_gateTerms _ few]
  exact ⟨fun h j lo hi => h _ ⟨j, ⟨lo, hi⟩, rfl⟩, fun h _ ⟨j, ⟨lo, hi⟩, e⟩ => e ▸ h j lo hi⟩

/-- R56: the re-arm signal counts where its view is acceptable and not 0. -/
theorem State.rearmed_iff (s : State) (c : Gate) : s.rearmed c = true ↔ ∃ a, c.rearm = some a ∧ (s.read a).value ≠ 0 ∧
    (s.read a).quality.acceptable c.acceptForced = true := by
  unfold State.rearmed
  cases c.rearm with
  | none => simp
  | some a => simp [and_comm]

/-- Settles O38: each kind of term by its equation, the raw result over the gate's run of terms, and the rows of OPEN and LOCKED. -/
theorem termsDriveAndGatesFall : Obligations.TermsDriveAndGatesFall := by
  refine ⟨fun s forced t => ?_, fun s g c raw rearm count => ?_⟩
  · simp only [← ViewQuality.acceptable_iff]
    exact ⟨fun h => ⟨fun ha => State.termResult_of_not_acceptable h (Bool.eq_false_iff.mpr ha), State.termResult_of_acceptable h⟩,
      s.termResult_fresh_iff forced, s.termResult_gate_iff forced, s.termResult_always forced, fun g => s.rawResult_iff⟩
  · simp only [← ViewQuality.acceptable_iff]
    exact ⟨rfl, rfl, rfl, rfl, rfl, rfl, rfl, rfl, s.rearmed_iff c⟩

end Sys2Proof.Machine
end

section
namespace Sys2Proof.Machine

/-! ### Comparisons with K (R44, R45) -/

theorem compareTest_eq_iff (v : Int) (k : BitVec 16) : compareTest .eq v k = true ↔ v = k.toInt := by simp [compareTest]

theorem compareTest_ge_iff (v : Int) (k : BitVec 16) : compareTest .ge v k = true ↔ k.toInt ≤ v := by simp [compareTest]

theorem compareTest_le_iff (v : Int) (k : BitVec 16) : compareTest .le v k = true ↔ v ≤ k.toInt := by simp [compareTest]

/-- ANY: some bit of K is set in the value's pattern. -/
theorem compareTest_any_iff (v : Int) (k : BitVec 16) : compareTest .any v k = true ↔
    ∃ i, i < 16 ∧ k.getLsbD i = true ∧ (BitVec.ofInt 16 v).getLsbD i = true := by
  constructor
  · intro h
    by_contra hn
    refine (bne_iff_ne.mp h) (BitVec.eq_of_getLsbD_eq fun i hi => ?_)
    rw [BitVec.getLsbD_and, show BitVec.getLsbD (0 : BitVec 16) i = false from BitVec.getLsbD_zero, Bool.and_eq_false_iff]
    by_contra hb
    simp only [not_or, Bool.not_eq_false] at hb
    exact hn ⟨i, hi, hb.2, hb.1⟩
  · rintro ⟨i, -, hk, hv⟩
    refine bne_iff_ne.mpr fun h => ?_
    have bit := congrArg (BitVec.getLsbD · i) h
    simp [hk, hv] at bit

/-- ALL: every bit of K is set in the value's pattern. -/
theorem compareTest_all_iff (v : Int) (k : BitVec 16) : compareTest .all v k = true ↔
    ∀ i, i < 16 → k.getLsbD i = true → (BitVec.ofInt 16 v).getLsbD i = true := by
  constructor
  · intro h i _ hk
    rw [← beq_iff_eq.mp h, BitVec.getLsbD_and, Bool.and_eq_true] at hk
    exact hk.1
  · intro h
    refine beq_iff_eq.mpr (BitVec.eq_of_getLsbD_eq fun i hi => ?_)
    rw [BitVec.getLsbD_and]
    cases hk : k.getLsbD i with
    | false => rw [Bool.and_false]
    | true => rw [h i hi hk, Bool.true_and]

/-- The bits of the pattern 0x000F. -/
theorem getLsbD_lowNibble {i : Nat} (hi : i < 16) : (0x000F : BitVec 16).getLsbD i = true ↔ i < 4 := by
  have : ∀ j : Fin 16, (0x000F : BitVec 16).getLsbD j.val = true ↔ j.val < 4 := by decide
  exact this ⟨i, hi⟩

/-- The pattern of a negative number of the signal range has its highest bit set. -/
theorem signBit_ofInt {v : Int} (range : signalRange v) (negative : v < 0) : (BitVec.ofInt 16 v).getLsbD 15 = true := by
  obtain ⟨least, most⟩ := range
  have number : (BitVec.ofInt 16 v).toInt = v := BitVec.toInt_ofInt_eq_self (by decide) (by omega) (by omega)
  have sign : (BitVec.ofInt 16 v).msb = true := by rw [BitVec.msb_eq_toInt, number, decide_eq_true negative]
  exact sign

/-! ### The value a test compares (R4, R9) -/

theorem SigRec.view_value (r : SigRec) : r.view.value = r.force.getD r.value := by
  unfold SigRec.view
  cases r.force <;> rfl

theorem State.read_of_resolve {s : State} {a : SigAddr} {i : SigIx} (h : s.resolve a = some i) : s.read a = s.view i := by
  simp only [State.read, h]

section
variable {s : State} {forced : Bool} {a : SigAddr} (ha : (s.read a).quality.acceptable forced = true) (negate : Bool) (k : BitVec 16)
include ha

/-- A value test on an acceptable view holds exactly where its comparison and the absence of negate agree. -/
theorem State.termResult_iff_of_acceptable {test : Test} (h : test.comparesValue) :
    s.termResult forced ⟨a, test, negate, k⟩ = true ↔ (compareTest test (s.read a).value k = true ↔ negate = false) := by
  rw [State.termResult_of_acceptable h ha, bne_negate_iff]

theorem State.termResult_eq_iff : s.termResult forced ⟨a, .eq, negate, k⟩ = true ↔ ((s.read a).value = k.toInt ↔ negate = false) := by
  rw [State.termResult_iff_of_acceptable ha _ _ (by simp [Test.comparesValue]), compareTest_eq_iff]

theorem State.termResult_ge_iff : s.termResult forced ⟨a, .ge, negate, k⟩ = true ↔ (k.toInt ≤ (s.read a).value ↔ negate = false) := by
  rw [State.termResult_iff_of_acceptable ha _ _ (by simp [Test.comparesValue]), compareTest_ge_iff]

theorem State.termResult_le_iff : s.termResult forced ⟨a, .le, negate, k⟩ = true ↔ ((s.read a).value ≤ k.toInt ↔ negate = false) := by
  rw [State.termResult_iff_of_acceptable ha _ _ (by simp [Test.comparesValue]), compareTest_le_iff]

theorem State.termResult_any_iff : s.termResult forced ⟨a, .any, negate, k⟩ = true ↔
    ((∃ i, i < 16 ∧ k.getLsbD i = true ∧ (BitVec.ofInt 16 (s.read a).value).getLsbD i = true) ↔ negate = false) := by
  rw [State.termResult_iff_of_acceptable ha _ _ (by simp [Test.comparesValue]), compareTest_any_iff]

theorem State.termResult_all_iff : s.termResult forced ⟨a, .all, negate, k⟩ = true ↔
    ((∀ i, i < 16 → k.getLsbD i = true → (BitVec.ofInt 16 (s.read a).value).getLsbD i = true) ↔ negate = false) := by
  rw [State.termResult_iff_of_acceptable ha _ _ (by simp [Test.comparesValue]), compareTest_all_iff]

end

theorem toInt_leastNumber : (0x8000 : BitVec 16).toInt = -32768 := by decide

theorem toInt_mostNumber : (0x7FFF : BitVec 16).toInt = 32767 := by decide

/-- Settles O39: each test through its comparison, on the number for EQ, GE and LE and on the bits for ANY and ALL. -/
theorem valueTestsCompareWithK : Obligations.ValueTestsCompareWithK := by
  refine ⟨fun s forced negate a k => ?_, fun s forced negate a k => ?_⟩
  all_goals
    simp only [← ViewQuality.acceptable_iff]
    intro ha
  · refine ⟨State.termResult_eq_iff ha negate k, State.termResult_ge_iff ha negate k, State.termResult_le_iff ha negate k,
      fun h => h ▸ by decide, fun h => h ▸ toInt_leastNumber, fun ⟨least, most⟩ => ⟨?_, ?_⟩, fun i hi => ?_⟩
    · rw [State.termResult_ge_iff ha, toInt_leastNumber]
      exact iff_of_true least rfl
    · rw [State.termResult_le_iff ha, toInt_mostNumber]
      exact iff_of_true most rfl
    · rw [State.read_of_resolve hi, State.view, SigRec.view_value]
      cases (s.image.get i).force <;> rfl
  · refine ⟨State.termResult_any_iff ha negate k, State.termResult_all_iff ha negate k, ⟨?_, ?_⟩, ?_, ?_, fun range negative => ?_⟩
    · rw [Bool.eq_false_iff, ne_eq, State.termResult_any_iff ha]
      simp
    · rw [State.termResult_all_iff ha]
      simp
    · rw [State.termResult_all_iff ha, iff_true_right rfl]
      exact ⟨fun h i hi => h i (by omega) ((getLsbD_lowNibble (by omega)).mpr hi),
        fun h i hi hk => h i ((getLsbD_lowNibble hi).mp hk)⟩
    · rw [State.termResult_any_iff ha, iff_true_right rfl]
      exact ⟨fun ⟨i, hi, hk, hv⟩ => ⟨i, (getLsbD_lowNibble hi).mp hk, hv⟩,
        fun ⟨i, hi, hv⟩ => ⟨i, by omega, (getLsbD_lowNibble (by omega)).mpr hi, hv⟩⟩
    · rw [State.termResult_any_iff ha, iff_true_right rfl]
      exact ⟨15, by decide, by decide, signBit_ofInt range negative⟩

end Sys2Proof.Machine
end

/-! # Proofs about the counts of gates, monitors, channels and digital inputs (R52 to R57, R60, R61, R133, R134, R144)

The tables' limits and the runtime of the qualifiers are gathered into `Qualifiers`, the part of the state that the obligation speaks of.
Four changes touch it: a sweep, the completion of a scan, the reading of a monitor, and the entries into power-on, CONFIG and RUN, which
put every qualifier at rest. Of the tables only WATCH, which limits no count, is written while they are not. Every other operation keeps
it. -/

section
namespace Sys2Proof.Machine

/-! ### The limits of the tables (R40, R130, R143) -/

/-- The limits of the written fields that the qualifiers count against. -/
structure Tables.InLimits (t : Tables) : Prop where
  terms : ∀ g, (t.gates.get g).termCount ≤ 8
  thresholds : ∀ g, (t.gates.get g).enabled = true → 1 ≤ (t.gates.get g).k ∧ (t.gates.get g).k ≤ 15
  monitors : ∀ d, (t.feeds.get d).enabled = true →
    (1 ≤ (t.feeds.get d).nL ∧ (t.feeds.get d).nL ≤ 15) ∧ (1 ≤ (t.feeds.get d).nG ∧ (t.feeds.get d).nG ≤ 15)
  inputs : ∀ i, 1 ≤ t.inputQ.get i ∧ t.inputQ.get i ≤ 7

theorem Tables.powerOn_inLimits : Tables.powerOn.InLimits := by
  constructor <;> simp [Tables.powerOn]

theorem upTo_eq_some {hi k n : Nat} (h : upTo hi k = some n) : n ≤ hi := by
  unfold upTo at h
  split at h <;> simp_all

theorem clampNat_mem {lo hi : Nat} (h : lo ≤ hi) (v : Nat) : lo ≤ (clampNat lo hi v).1 ∧ (clampNat lo hi v).1 ≤ hi :=
  ⟨Nat.le_max_left _ _, Nat.max_le.mpr ⟨h, Nat.min_le_left _ _⟩⟩

theorem gateOf?_limits {bs : List Byte} {a : Gate × Bool} (h : gateOf? bs = some a) :
    a.1.termCount ≤ 8 ∧ 1 ≤ a.1.k ∧ a.1.k ≤ 15 := by
  unfold gateOf? at h
  split at h
  · cases h
  · simp only [Option.bind_eq_bind, Option.bind_eq_some_iff, Option.pure_def, Option.some.injEq] at h
    obtain ⟨_, -, count, hcount, _, -, _, -, _, -, _, -, _, -, rfl⟩ := h
    exact ⟨upTo_eq_some hcount, clampNat_mem (by decide) _⟩

theorem feedOf?_limits {bs : List Byte} {a : FeedEntry × Bool} (h : feedOf? bs = some a) :
    (1 ≤ a.1.nL ∧ a.1.nL ≤ 15) ∧ (1 ≤ a.1.nG ∧ a.1.nG ≤ 15) := by
  unfold feedOf? at h
  split at h
  · cases h
  · simp only [Option.bind_eq_bind, Option.bind_eq_some_iff, Option.pure_def] at h
    obtain ⟨_, -, _, -, _, -, h⟩ := h
    split at h
    · cases h
    · obtain rfl := Option.some.inj h
      exact ⟨clampNat_mem (by decide) _, clampNat_mem (by decide) _⟩

theorem timingOf?_limits {lo hi : Nat} (order : lo ≤ hi) {bs : List Byte} {a : Nat × Bool} (h : timingOf? lo hi bs = some a) :
    lo ≤ a.1 ∧ a.1 ≤ hi := by
  unfold timingOf? at h
  split at h
  · cases h
  · obtain rfl := Option.some.inj h
    exact clampNat_mem order _

/-! ### A table written (R155, R156) -/

/-- The limits read three tables; a write that leaves these alone keeps them. -/
theorem Tables.InLimits.of_eq {t t' : Tables} (h : t.InLimits) (gates : t'.gates = t.gates) (feeds : t'.feeds = t.feeds)
    (inputQ : t'.inputQ = t.inputQ) : t'.InLimits :=
  ⟨gates ▸ h.terms, gates ▸ h.thresholds, feeds ▸ h.monitors, inputQ ▸ h.inputs⟩

theorem Tables.InLimits.setGate {t : Tables} (h : t.InLimits) (g : GateIx) {a : Gate} (ha : a.termCount ≤ 8 ∧ 1 ≤ a.k ∧ a.k ≤ 15) :
    Tables.InLimits { t with gates := t.gates.set g a } := by
  refine ⟨fun j => ?_, fun j => ?_, h.monitors, h.inputs⟩ <;> rw [Tab.get_set] <;> split
  · exact ha.1
  · exact h.terms j
  · exact fun _ => ha.2
  · exact h.thresholds j

theorem Tables.InLimits.setFeed {t : Tables} (h : t.InLimits) (d : Fin 2) {a : FeedEntry}
    (ha : (1 ≤ a.nL ∧ a.nL ≤ 15) ∧ (1 ≤ a.nG ∧ a.nG ≤ 15)) : Tables.InLimits { t with feeds := t.feeds.set d a } := by
  refine ⟨h.terms, h.thresholds, fun j => ?_, h.inputs⟩
  rw [Tab.get_set]
  split
  · exact fun _ => ha
  · exact h.monitors j

theorem Tables.InLimits.setInputQ {t : Tables} (h : t.InLimits) (i : Fin 16) {q : Nat} (hq : 1 ≤ q ∧ q ≤ 7) :
    Tables.InLimits { t with inputQ := t.inputQ.set i q } := by
  refine ⟨h.terms, h.thresholds, h.monitors, fun j => ?_⟩
  rw [Tab.get_set]
  split
  · exact hq
  · exact h.inputs j

/-- A write of one entry: the index and the record it has decoded, and the tables with the record stored. -/
theorem written_entry {α β : Type} {index : Option α} {record : α → Option β} {store : α → β → Tables} {flag : α → β → Bool}
    {t' : Tables} {clamped : Bool}
    (h : (do let k ← index; let a ← record k; pure (store k a, flag k a)) = some (t', clamped)) :
    ∃ k a, record k = some a ∧ t' = store k a := by
  simp only [Option.bind_eq_bind, Option.bind_eq_some_iff, Option.pure_def, Option.some.injEq, Prod.mk.injEq] at h
  obtain ⟨k, -, a, ha, rfl, -⟩ := h
  exact ⟨k, a, ha, rfl⟩

theorem Tables.write_watch {t t' : Tables} {i : Nat} {bs : List Byte} {clamped : Bool}
    (h : t.write .watch i bs = some (t', clamped)) : ∃ w, t' = { t with watch := w } := by
  obtain ⟨k, a, -, rfl⟩ := written_entry h
  exact ⟨_, rfl⟩

/-- A write of any table stores nothing outside the limits. -/
theorem Tables.InLimits.write {t t' : Tables} (ht : t.InLimits) {table : TableId} {i : Nat} {bs : List Byte} {clamped : Bool}
    (h : t.write table i bs = some (t', clamped)) : t'.InLimits := by
  cases table with
  | gate =>
    simp only [Tables.write] at h
    split at h
    · simp only [Option.bind_eq_bind, Option.bind_eq_some_iff, Option.pure_def, Option.some.injEq, Prod.mk.injEq] at h
      obtain ⟨period, -, rfl, -⟩ := h
      exact ht.of_eq rfl rfl rfl
    · obtain ⟨g, a, ha, rfl⟩ := written_entry h
      exact ht.setGate g (gateOf?_limits ha)
  | feed =>
    obtain ⟨d, a, ha, rfl⟩ := written_entry h
    exact ht.setFeed d (feedOf?_limits ha)
  | trolley =>
    simp only [Tables.write] at h
    split at h
    · obtain ⟨c, a, -, rfl⟩ := written_entry h
      exact ht.of_eq rfl rfl rfl
    split at h
    · obtain ⟨k, a, ha, rfl⟩ := written_entry h
      exact ht.setInputQ k (timingOf?_limits (by decide) ha)
    split at h
    case h_5 => cases h
    all_goals
      simp only [Option.map_eq_some_iff, Prod.mk.injEq] at h
      obtain ⟨a, -, rfl, -⟩ := h
      exact ht.of_eq rfl rfl rfl
  | slot =>
    simp only [Tables.write] at h
    split at h <;> obtain ⟨k, a, -, rfl⟩ := written_entry h <;> exact ht.of_eq rfl rfl rfl
  | area | line | profile | placement | conversion | term | watch =>
    obtain ⟨k, a, -, rfl⟩ := written_entry h
    exact ht.of_eq rfl rfl rfl

end Sys2Proof.Machine
end

section
namespace Sys2Proof.Machine

/-! ### One qualifier and its entry -/

/-- R52 to R57, R60, R61: a gate's runtime agrees with its record. -/
structure GateRt.Fits (c : Gate) (rt : GateRt) : Prop where
  disabled : c.enabled = false → rt = .closed
  saved : rt.saved = rt.state
  closed : rt.state = .closed → rt.count = 0
  rising : rt.state = .rising → 1 ≤ rt.count ∧ rt.count < c.k
  opened : rt.state = .opened → rt.count = c.k
  locked : rt.state = .locked → rt.count = 0 ∧ c.latching = true

theorem GateRt.closed_fits (c : Gate) : GateRt.closed.Fits c := by constructor <;> simp [GateRt.closed]

theorem GateRt.rising_fits {c : Gate} (enabled : c.enabled = true) {count : Nat} (least : 1 ≤ count) (below : count < c.k) :
    GateRt.Fits c ⟨.rising, count, .rising⟩ := by constructor <;> simp [enabled, least, below]

theorem GateRt.opened_fits {c : Gate} (enabled : c.enabled = true) : GateRt.Fits c ⟨.opened, c.k, .opened⟩ := by
  constructor <;> simp [enabled]

theorem GateRt.locked_fits {c : Gate} (enabled : c.enabled = true) (latching : c.latching = true) :
    GateRt.Fits c ⟨.locked, 0, .locked⟩ := by constructor <;> simp [enabled, latching]

/-- R52 to R57: an enabled gate's transition keeps its runtime to its record. -/
theorem GateRt.Fits.step {c : Gate} {rt : GateRt} (h : rt.Fits c) (enabled : c.enabled = true) (hk : 1 ≤ c.k) (raw rearm : Bool) :
    GateRt.Fits c ⟨(gateStep c raw rearm rt.state rt.count).1, (gateStep c raw rearm rt.state rt.count).2,
      (gateStep c raw rearm rt.state rt.count).1⟩ := by
  cases hs : rt.state with
  | closed =>
    cases raw with
    | false => exact closed_fits c
    | true =>
      rw [gateStep_closed_true hk]
      by_cases one : c.k = 1
      · rw [if_pos one, ← one]; exact opened_fits enabled
      · rw [if_neg one]; exact rising_fits enabled le_rfl (by omega)
  | rising =>
    obtain ⟨-, below⟩ := h.rising hs
    cases raw with
    | false => exact closed_fits c
    | true =>
      rw [gateStep_rising_true below]
      by_cases last : rt.count + 1 = c.k
      · rw [if_pos last, last]; exact opened_fits enabled
      · rw [if_neg last]; exact rising_fits enabled (by omega) (by omega)
  | opened =>
    cases raw with
    | true => exact opened_fits enabled
    | false =>
      rw [gateStep_opened_false]
      cases latching : c.latching with
      | false => exact closed_fits c
      | true => exact locked_fits enabled latching
  | locked =>
    obtain ⟨-, latching⟩ := h.locked hs
    rw [gateStep_locked]
    cases rearm with
    | false => exact locked_fits enabled latching
    | true => exact closed_fits c

/-- R144: a monitor's state and count agree with its entry. -/
structure FeedEntry.Fits (e : FeedEntry) (m : FeedState × Nat) : Prop where
  disabled : e.enabled = false → m.1 = .good
  steady : m.1 = .good ∨ m.1 = .low → m.2 = 0
  dipping : m.1 = .dipping → 1 ≤ m.2 ∧ m.2 < e.nL
  recovering : m.1 = .recovering → 1 ≤ m.2 ∧ m.2 < e.nG

theorem FeedEntry.fits_good (e : FeedEntry) : e.Fits (.good, 0) := by constructor <;> simp

theorem FeedEntry.fits_low {e : FeedEntry} (enabled : e.enabled = true) : e.Fits (.low, 0) := by constructor <;> simp [enabled]

theorem FeedEntry.fits_dipping {e : FeedEntry} (enabled : e.enabled = true) {count : Nat} (least : 1 ≤ count) (below : count < e.nL) :
    e.Fits (.dipping, count) := by constructor <;> simp [enabled, least, below]

theorem FeedEntry.fits_recovering {e : FeedEntry} (enabled : e.enabled = true) {count : Nat} (least : 1 ≤ count)
    (below : count < e.nG) : e.Fits (.recovering, count) := by constructor <;> simp [enabled, least, below]

/-- R146, R147: an enabled monitor agrees with its entry after a reading of any class: a count is kept only below its limit. -/
theorem FeedEntry.fits_feedStep {e : FeedEntry} (enabled : e.enabled = true) (c : ReadingClass) (st : FeedState) (count : Nat) :
    e.Fits (feedStep e c st count) := by
  have good := e.fits_good
  have low := fits_low enabled
  cases st with
  | good =>
    cases c with
    | below =>
      simp only [feedStep]
      split
      · exact low
      · exact fits_dipping enabled le_rfl (by omega)
    | between | above => exact good
  | dipping =>
    cases c with
    | below =>
      simp only [feedStep]
      split
      · exact low
      · exact fits_dipping enabled (by omega) (by omega)
    | between | above => exact good
  | low =>
    cases c with
    | below | between => exact low
    | above =>
      simp only [feedStep]
      split
      · exact good
      · exact fits_recovering enabled le_rfl (by omega)
  | recovering =>
    cases c with
    | below | between => exact low
    | above =>
      simp only [feedStep]
      split
      · exact good
      · exact fits_recovering enabled (by omega) (by omega)

/-- R133: a channel's runtime agrees with its entry. -/
structure ChannelRt.Fits (c : Channel) (rt : ChannelRt) : Prop where
  normal : rt.state = .normal → rt.openCount ≤ 2
  opened : rt.state = .opened → rt.openCount = 3
  unchecked : c.enabled = false ∨ c.openCheck = false → rt.state = .normal ∧ rt.openCount = 0

theorem ChannelRt.normal_fits (c : Channel) (r : BitVec 12) : ChannelRt.Fits c ⟨.normal, 0, r⟩ := by constructor <;> simp

/-- R133: an enabled channel's runtime agrees with its entry after any reading: an open reading is checked, and the third in a row
opens the channel. -/
theorem ChannelRt.fits_steppedChannel {c : Channel} (enabled : c.enabled = true) (rt : ChannelRt) (r : BitVec 12) :
    (steppedChannel c rt r).Fits c := by
  cases broken : isOpenReading c r with
  | false =>
    have : readingOutcome c rt r = .delivered := by simp [readingOutcome, broken]
    rw [steppedChannel, this]
    exact normal_fits c r
  | true =>
    have checked : c.openCheck = true := by simp_all [isOpenReading]
    have fits_opened : ChannelRt.Fits c ⟨.opened, 3, r⟩ := by constructor <;> simp [enabled, checked]
    cases hs : rt.state with
    | opened =>
      have : readingOutcome c rt r = .opened := by simp [readingOutcome, broken, hs]
      rw [steppedChannel, this]
      exact fits_opened
    | normal =>
      by_cases third : 2 ≤ rt.openCount
      · have : readingOutcome c rt r = .opened := by simp [readingOutcome, broken, hs, third]
        rw [steppedChannel, this]
        exact fits_opened
      · have : readingOutcome c rt r = .withheld := by simp [readingOutcome, broken, hs, third]
        rw [steppedChannel, this]
        constructor <;> simp [enabled, checked]
        omega

/-- R134: a counted sample leaves the change count below q. -/
theorem countedInput_changes_lt {q : Nat} (hq : 1 ≤ q) (first sample : Bool) (rt : InputRt) :
    (countedInput first q sample rt).changes < q := by
  unfold countedInput
  split
  · exact hq
  split
  · exact hq
  split
  · exact hq
  · show rt.changes + 1 < q
    omega

/-! ### The qualifiers of a state -/

/-- What the counts of gates, monitors, channels and digital inputs are held against: the operating state, the tables and their runtime. -/
@[ext] structure Qualifiers where
  operating : Operating
  tables : Tables
  gates : Tab GateRt 32
  feeds : Tab (FeedState × Nat) 2
  channels : Tab ChannelRt 16
  inputs : Tab InputRt 16

/-- The qualifiers of a state. -/
def State.qualifiers (s : State) : Qualifiers :=
  ⟨s.operating, s.tables, s.gateRt, s.feedRt.map fun f => (f.state, f.count), s.tio.channels, s.tio.inputs⟩

/-- Every qualifier as the entries into CONFIG and RUN leave it (R60, R133, R134, R144). -/
def Qualifiers.atRest (o : Operating) (t : Tables) : Qualifiers :=
  ⟨o, t, .fill 32 .closed, .fill 2 (.good, 0), .fill 16 .fresh, .fill 16 .fresh⟩

/-- The counts agree with the states and limits, and in CONFIG every qualifier is at rest (R154). -/
structure Qualifiers.Fit (q : Qualifiers) : Prop where
  limits : q.tables.InLimits
  gates : ∀ g, (q.gates.get g).Fits (q.tables.gates.get g)
  feeds : ∀ d, (q.tables.feeds.get d).Fits (q.feeds.get d)
  channels : ∀ c, (q.channels.get c).Fits (q.tables.channels.get c)
  inputs : ∀ i, (q.inputs.get i).changes < q.tables.inputQ.get i
  rest : q.operating = .config → q = .atRest .config q.tables

theorem Qualifiers.fit_atRest (o : Operating) {t : Tables} (h : t.InLimits) : (Qualifiers.atRest o t).Fit where
  limits := h
  gates g := (Tab.get_fill GateRt.closed g).symm ▸ GateRt.closed_fits _
  feeds d := (Tab.get_fill (FeedState.good, 0) d).symm ▸ FeedEntry.fits_good _
  channels c := (Tab.get_fill ChannelRt.fresh c).symm ▸ ChannelRt.normal_fits _ _
  inputs i := (Tab.get_fill InputRt.fresh i).symm ▸ (h.inputs i).1
  rest := by rintro rfl; rfl

/-! ### The invariant and the qualifiers -/

theorem State.Inv.qualifiers_fit {s : State} (h : s.Inv) : s.qualifiers.Fit where
  limits := ⟨h.gates.terms, h.gates.thresholds, h.feeds.limits, fun i =>
    have ⟨least, most, _⟩ := h.trolley.inputs i
    ⟨least, most⟩⟩
  gates g := by
    have counts := h.gates.counts g
    refine ⟨h.gates.disabled g, h.gates.saved g, ?_, ?_, ?_, ?_⟩ <;> intro (hs : (s.gateRt.get g).state = _) <;>
      rw [hs] at counts <;> exact counts
  feeds d := by
    have counts := h.feeds.counts d
    simp only [State.qualifiers, Tab.get_map]
    refine ⟨h.feeds.disabled d, ?_, ?_, ?_⟩
    · rintro (hs | hs) <;> rw [show (s.feedRt.get d).state = _ from hs] at counts <;> exact counts
    all_goals
      intro (hs : (s.feedRt.get d).state = _)
      rw [hs] at counts
      exact counts
  channels c := by
    have counts := h.trolley.counts c
    refine ⟨?_, ?_, h.trolley.unchecked c⟩ <;> intro (hs : (s.tio.channels.get c).state = _) <;> rw [hs] at counts <;> exact counts
  inputs i :=
    have ⟨_, _, below⟩ := h.trolley.inputs i
    below
  rest hc := by
    have gates : s.gateRt = .fill 32 .closed := Tab.ext_get fun g => by rw [h.rest.gates hc g, Tab.get_fill]
    have feeds : s.feedRt = .fill 2 .fresh := Tab.ext_get fun d => by rw [h.rest.feeds hc d, Tab.get_fill]
    have operating : s.operating = .config := hc
    simp only [State.qualifiers, operating, gates, feeds, h.rest.trolley hc]
    rfl

theorem Qualifiers.Fit.gateInv {s : State} (h : s.qualifiers.Fit) : GateInv s where
  terms := h.limits.terms
  thresholds := h.limits.thresholds
  disabled g := (h.gates g).disabled
  saved g := (h.gates g).saved
  counts g := by
    obtain ⟨-, -, closed, rising, opened, locked⟩ := h.gates g
    split
    · next hs => exact closed hs
    · next hs => exact rising hs
    · next hs => exact opened hs
    · next hs => exact locked hs

theorem Qualifiers.Fit.feedInv {s : State} (h : s.qualifiers.Fit) : FeedInv s := by
  have fits : ∀ d, (s.tables.feeds.get d).Fits ((s.feedRt.get d).state, (s.feedRt.get d).count) := fun d => by
    have := h.feeds d
    rwa [State.qualifiers, Tab.get_map] at this
  refine ⟨h.limits.monitors, fun d => (fits d).disabled, fun d => ?_⟩
  obtain ⟨-, steady, dipping, recovering⟩ := fits d
  split
  · next hs => exact steady (.inl hs)
  · next hs => exact steady (.inr hs)
  · next hs => exact dipping hs
  · next hs => exact recovering hs

theorem Qualifiers.Fit.trolleyInv {s : State} (h : s.qualifiers.Fit) : TrolleyInv s where
  counts c := by
    obtain ⟨normal, opened, -⟩ := h.channels c
    split
    · next hs => exact normal hs
    · next hs => exact opened hs
  unchecked c := (h.channels c).unchecked
  inputs i := ⟨(h.limits.inputs i).1, (h.limits.inputs i).2, h.inputs i⟩

end Sys2Proof.Machine
end

section
namespace Sys2Proof.Machine

/-! ### What keeps the qualifiers -/

section
variable (s : State)

@[simp] theorem State.qualifiers_setPort (l : MasterLine) (p : MasterPort) : (s.setPort l p).qualifiers = s.qualifiers := by
  cases l <;> rfl
@[simp] theorem State.qualifiers_onPort (l : MasterLine) (f : MasterPort → MasterPort) : (s.onPort l f).qualifiers = s.qualifiers :=
  s.qualifiers_setPort l _
@[simp] theorem State.qualifiers_setLink (l : Line) (k : Link) : (s.setLink l k).qualifiers = s.qualifiers := by cases l <;> rfl
@[simp] theorem State.qualifiers_setPhase (l : Line) (p : LinePhase) : (s.setPhase l p).qualifiers = s.qualifiers :=
  s.qualifiers_setLink l _
@[simp] theorem State.qualifiers_send (l : Line) (f : Frame) : (s.send l f).qualifiers = s.qualifiers := s.qualifiers_setPhase l _
@[simp] theorem State.qualifiers_onFp (f : FestoonPort → FestoonPort) : (s.onFp f).qualifiers = s.qualifiers := rfl
@[simp] theorem State.qualifiers_onSlot (e : MasterIx) (f : MasterRt → MasterRt) : (s.onSlot e f).qualifiers = s.qualifiers := rfl
@[simp] theorem State.qualifiers_onSlots (sel : MasterIx → Bool) (f : MasterSlot → MasterRt → MasterRt) :
    (s.onSlots sel f).qualifiers = s.qualifiers := rfl
@[simp] theorem State.qualifiers_stopSearch : s.stopSearch.qualifiers = s.qualifiers := rfl
@[simp] theorem State.qualifiers_enterSearch : s.enterSearch.qualifiers = s.qualifiers := rfl
@[simp] theorem State.qualifiers_drawWatch (table : TableId) : (s.drawWatch table).qualifiers = s.qualifiers := by cases table <;> rfl

/-- A monitor's runtime changed: its state and count are the qualifiers that may change. -/
theorem State.qualifiers_onFeed (d : Feed) (f : FeedRt → FeedRt) : (s.onFeed d f).qualifiers =
    { s.qualifiers with feeds := s.qualifiers.feeds.set (feedIx d) ((f (s.feed d)).state, (f (s.feed d)).count) } := by
  refine Qualifiers.ext rfl rfl rfl (Tab.ext_get fun j => ?_) rfl rfl
  simp only [State.qualifiers, State.onFeed, Tab.get_map, Tab.get_modify, Tab.get_set]
  split <;> rfl

/-- A monitor's runtime changed, its state and count kept. -/
theorem State.qualifiers_onFeed_of_same {d : Feed} {f : FeedRt → FeedRt} (state : (f (s.feed d)).state = (s.feed d).state)
    (count : (f (s.feed d)).count = (s.feed d).count) : (s.onFeed d f).qualifiers = s.qualifiers := by
  have same : ((s.feed d).state, (s.feed d).count) = s.qualifiers.feeds.get (feedIx d) := by
    simp only [State.qualifiers, Tab.get_map, State.feed]
  rw [s.qualifiers_onFeed, state, count, same, Tab.set_get]

end

/-- What only reports keeps the qualifiers. -/
theorem State.Reported.qualifiers {s t : State} (h : s.Reported t) : t.qualifiers = s.qualifiers := by
  obtain ⟨events, ovf, watchLast, rfl, -⟩ := h
  rfl

@[simp] theorem State.qualifiers_raise (s : State) (e : Event) : (s.raise e).qualifiers = s.qualifiers :=
  (s.reported_raise e).qualifiers

@[simp] theorem State.qualifiers_raiseAll (s : State) (es : List Event) : (s.raiseAll es).qualifiers = s.qualifiers :=
  (s.reported_raiseAll es).qualifiers

@[simp] theorem Work.qualifiers_close (w : Work) : w.close.qualifiers = w.st.qualifiers := w.reported_close.qualifiers

@[simp] theorem Work.qualifiers_stale (w : Work) (sigs : List SigIx) : (w.stale sigs).st.qualifiers = w.st.qualifiers := rfl

@[simp] theorem Work.qualifiers_suspectFeed (w : Work) (o : Owner) : (w.suspectFeed o).st.qualifiers = w.st.qualifiers := rfl

@[simp] theorem Work.qualifiers_clearArea (w : Work) (o : Owner) : (w.clearArea o).st.qualifiers = w.st.qualifiers := rfl

@[simp] theorem Work.qualifiers_applyRun (w : Work) (run : List Placement) (bytes : List Byte) :
    (w.applyRun run bytes).st.qualifiers = w.st.qualifiers := by rw [w.applyRun_frame]; rfl

/-- What each step of a fold keeps, the fold keeps. -/
theorem foldl_keeps {α β γ : Type} (view : α → γ) {f : α → β → α} (h : ∀ a b, view (f a b) = view a) (l : List β) (a : α) :
    view (l.foldl f a) = view a := by
  rw [← List.foldl_hom view (g₂ := fun c _ => c) fun a b => (h a b).symm, List.foldl_fixed]

/-! #### Receptions -/

@[simp] theorem State.qualifiers_judged_scoreGood (s : State) (l : Line) : ((s.judged l).scoreGood l).qualifiers = s.qualifiers := by
  rw [(State.goodScored l s).frame]
  exact s.qualifiers_setLink l _

@[simp] theorem State.qualifiers_judged_scoreError (s : State) (l : Line) : ((s.judged l).scoreError l).qualifiers = s.qualifiers := by
  rw [(State.errorScored l s).frame]
  exact s.qualifiers_setLink l _

@[simp] theorem State.qualifiers_judged (s : State) (l : Line) : (s.judged l).qualifiers = s.qualifiers := s.qualifiers_setLink l _

/-! #### Cycles and turns of a master port -/

@[simp] theorem State.qualifiers_atBoundary (s : State) (l : MasterLine) : (s.atBoundary l).qualifiers = s.qualifiers := by
  obtain ⟨p, h, -⟩ := s.atBoundary_eq l
  rw [h, s.qualifiers_setPort]

@[simp] theorem State.qualifiers_startCycle (s : State) (l : MasterLine) : (s.startCycle l).qualifiers = s.qualifiers := by
  by_cases idle : (s.port l).turn = .none ∧ (s.port l).queue = []
  · rw [s.startCycle_of_idle l idle.1 idle.2, s.qualifiers_setPort]
  · rw [s.startCycle_behind l idle, s.qualifiers_setPort]

@[simp] theorem State.qualifiers_enterCycling (s : State) (l : MasterLine) : (s.enterCycling l).qualifiers = s.qualifiers := by
  simp [State.enterCycling]

@[simp] theorem State.qualifiers_resumeCab (s : State) : s.resumeCab.qualifiers = s.qualifiers := by simp [State.resumeCab]

@[simp] theorem State.qualifiers_cycleExpiry (s : State) (l : MasterLine) : (s.cycleExpiry l).qualifiers = s.qualifiers := by
  unfold State.cycleExpiry State.cycleOverrun
  split
  · simp
  · simp only; split <;> simp

@[simp] theorem State.qualifiers_beginOut (s : State) (l : MasterLine) : (s.beginOut l).qualifiers = s.qualifiers := by
  unfold State.beginOut
  split <;> simp

@[simp] theorem State.qualifiers_endOut (s : State) (l : MasterLine) : (s.endOut l).qualifiers = s.qualifiers := by
  unfold State.endOut
  split
  · rfl
  · simp only; split <;> simp

@[simp] theorem State.qualifiers_beginIn (s : State) (l : MasterLine) : (s.beginIn l).qualifiers = s.qualifiers := by
  unfold State.beginIn
  split <;> simp

@[simp] theorem State.qualifiers_openWindow (s : State) (l : MasterLine) : (s.openWindow l).qualifiers = s.qualifiers := by
  unfold State.openWindow
  split <;> simp

/-! #### Chain requests -/

@[simp] theorem State.qualifiers_requestTurn (s : State) (l : MasterLine) (k : SlotIx) :
    (s.requestTurn l k).qualifiers = s.qualifiers := by
  obtain h | ⟨-, -, h⟩ := s.requestTurn_cases l k <;> rw [h]
  exact s.qualifiers_setPort l _

@[simp] theorem State.qualifiers_requestIf (s : State) (t : Option ChainTarget) : (State.requestIf t s).qualifiers = s.qualifiers := by
  cases t with
  | none => rfl
  | some c =>
    cases c with
    | sp k => exact s.qualifiers_requestTurn .sp k
    | cp k => exact s.qualifiers_requestTurn .cp k
    | l => rfl

/-! #### Misses, losses, detachments and holds -/

@[simp] theorem State.qualifiers_dropAttachment (s : State) : s.dropAttachment.qualifiers = s.qualifiers := by
  unfold State.dropAttachment
  split <;> rfl

@[simp] theorem Work.qualifiers_endIfAllLost (w : Work) (l : MasterLine) : (w.endIfAllLost l).st.qualifiers = w.st.qualifiers := by
  unfold Work.endIfAllLost
  split
  · split
    · simp [Work.endAttachment]
    · rfl
  all_goals rfl

@[simp] theorem Work.qualifiers_miss (w : Work) (l : MasterLine) (k : SlotIx) : (w.miss l k).st.qualifiers = w.st.qualifiers := by
  unfold Work.miss
  split
  · rfl
  · simp only; split <;> simp

@[simp] theorem Work.qualifiers_windowOver (w : Work) (l : MasterLine) (ended : Bool) :
    (w.windowOver l ended).st.qualifiers = w.st.qualifiers := by
  unfold Work.windowOver
  split
  · split
    · exact w.qualifiers_miss l _
    all_goals split <;> rfl
  · rfl

@[simp] theorem Work.qualifiers_windowExpiry (w : Work) (l : MasterLine) : (w.windowExpiry l).st.qualifiers = w.st.qualifiers := by
  unfold Work.windowExpiry
  split
  · rfl
  · exact w.qualifiers_miss l _

@[simp] theorem Work.qualifiers_detachSlots (l : MasterLine) (kes : List (SlotIx × MasterIx)) (w : Work) :
    (kes.foldl (Work.detachSlot l) w).st.qualifiers = w.st.qualifiers := by rw [Work.detachSlots_frame]; rfl

@[simp] theorem Work.qualifiers_detachAttachment (w : Work) : w.detachAttachment.st.qualifiers = w.st.qualifiers := by
  unfold Work.detachAttachment
  split <;> simp

@[simp] theorem Work.qualifiers_detachMaster (w : Work) (l : MasterLine) : (w.detachMaster l).st.qualifiers = w.st.qualifiers := by
  cases l <;> simp [Work.detachMaster]

@[simp] theorem State.qualifiers_detachFestoon (s : State) : s.detachFestoon.qualifiers = s.qualifiers := by simp [State.detachFestoon]

@[simp] theorem Work.qualifiers_masterError (w : Work) (l : MasterLine) (ended : Bool) :
    (w.masterError l ended).st.qualifiers = w.st.qualifiers := by
  unfold Work.masterError
  simp only
  split <;> simp

@[simp] theorem Work.qualifiers_masterStray (w : Work) (l : MasterLine) (ended : Bool) :
    (w.masterStray l ended).st.qualifiers = w.st.qualifiers := by simp [Work.masterStray]

@[simp] theorem Work.qualifiers_hold (w : Work) (l : MasterLine) : (w.hold l).st.qualifiers = w.st.qualifiers := by
  have ended : ∀ w : Work, w.holdAttachment.st.qualifiers = w.st.qualifiers := fun w => by
    rw [w.holdAttachment_st.2.1]; rfl
  cases l <;> simp [Work.hold, ended]

@[simp] theorem Work.qualifiers_leaveDetached (w : Work) (l : MasterLine) : (w.leaveDetached l).st.qualifiers = w.st.qualifiers := by
  unfold Work.leaveDetached
  split
  · exact w.qualifiers_hold l
  · cases l <;> simp

@[simp] theorem State.qualifiers_takeOrder (s : State) (l : MasterLine) : (s.takeOrder l).qualifiers = s.qualifiers :=
  s.qualifiers_onFeed_of_same rfl rfl

@[simp] theorem Work.qualifiers_takeHold (w : Work) (l : MasterLine) : (w.takeHold l).st.qualifiers = w.st.qualifiers := by
  unfold Work.takeHold
  simp only
  split
  · simp
  · split <;> simp
  all_goals simp

@[simp] theorem Work.qualifiers_takeRelease (w : Work) (l : MasterLine) : (w.takeRelease l).st.qualifiers = w.st.qualifiers := by
  unfold Work.takeRelease
  simp only
  split
  · split <;> simp
  all_goals simp

/-! #### Responses, replies and the spreader's search -/

@[simp] theorem Work.qualifiers_accept (w : Work) (l : MasterLine) (k : SlotIx) (e : MasterIx) (payload : List Byte) :
    (w.accept l k e payload).st.qualifiers = w.st.qualifiers := by
  unfold Work.accept
  simp only
  split <;> simp

@[simp] theorem Work.qualifiers_response (w : Work) (l : MasterLine) (f : Frame) : (w.response l f).st.qualifiers = w.st.qualifiers := by
  unfold Work.response
  split <;> simp

@[simp] theorem State.qualifiers_takeReply (s : State) (payload : List Byte) : (s.takeReply payload).qualifiers = s.qualifiers := by
  unfold State.takeReply
  split
  · simp [State.attach]; rfl
  · unfold State.unknownReply
    split
    · rfl
    · exact s.qualifiers_raise _

@[simp] theorem State.qualifiers_sendHail (s : State) : s.sendHail.qualifiers = s.qualifiers := s.qualifiers_send .sp hailFrame

/-! #### The festoon line -/

@[simp] theorem Work.qualifiers_acceptFestoon (w : Work) (k : SlotIx) (payload : List Byte) :
    (w.acceptFestoon k payload).st.qualifiers = w.st.qualifiers := by
  unfold Work.acceptFestoon
  simp only
  split <;> simp

@[simp] theorem State.qualifiers_festoonGood (s : State) : s.festoonGood.qualifiers = s.beginReception.qualifiers := by
  simp [State.festoonGood]

@[simp] theorem State.qualifiers_festoonError (s : State) : s.festoonError.qualifiers = s.beginReception.qualifiers := by
  unfold State.festoonError
  simp only
  split <;> simp

@[simp] theorem State.qualifiers_beginAnswer (s : State) : s.beginAnswer.qualifiers = s.qualifiers := by
  unfold State.beginAnswer
  split <;> simp

@[simp] theorem State.qualifiers_beginReply (s : State) : s.beginReply.qualifiers = s.qualifiers := by
  unfold State.beginReply
  split <;> simp

@[simp] theorem Work.qualifiers_staleExpiry (w : Work) (k : SlotIx) : (w.staleExpiry k).st.qualifiers = w.st.qualifiers := by
  simp [Work.staleExpiry]

@[simp] theorem State.qualifiers_holdReset (s : State) : s.holdReset.qualifiers = s.qualifiers := by
  refine Qualifiers.ext rfl rfl rfl (Tab.ext_get fun d => ?_) rfl rfl
  simp [State.qualifiers, State.holdReset]

end Sys2Proof.Machine
end

section
namespace Sys2Proof.Machine

/-! ### What puts the qualifiers at rest (R60, R133, R134, R144, R153, R160, R161) -/

@[simp] theorem State.qualifiers_toConfig (s : State) : s.toConfig.qualifiers = .atRest .config s.tables := by
  rw [s.toConfig_eq]; rfl

@[simp] theorem State.qualifiers_startCab (s : State) : s.startCab.qualifiers = s.qualifiers := by
  unfold State.startCab
  split <;> simp

@[simp] theorem State.qualifiers_toRun (s : State) : s.toRun.qualifiers = .atRest .run s.tables := by
  rw [State.toRun_eq, State.startSpreader_eq]
  exact State.qualifiers_startCab s.runBase

theorem State.fit_powerOn (strap : BitVec 5) (q : List Instr) : (State.powerOn strap q).qualifiers.Fit :=
  Qualifiers.fit_atRest .config Tables.powerOn_inLimits

theorem State.fit_toConfig {s : State} (h : s.tables.InLimits) : s.toConfig.qualifiers.Fit :=
  s.qualifiers_toConfig ▸ Qualifiers.fit_atRest .config h

theorem State.fit_toRun {s : State} (h : s.tables.InLimits) : s.toRun.qualifiers.Fit :=
  s.qualifiers_toRun ▸ Qualifiers.fit_atRest .run h

/-- R163: the warm restart ends in CONFIG or in RUN, at rest. -/
theorem State.fit_warmRestart {s : State} (h : s.tables.InLimits) : s.warmRestart.qualifiers.Fit := by
  have config : s.restartCounters.toConfig.qualifiers.Fit := State.fit_toConfig (s := s.restartCounters) h
  unfold State.warmRestart
  simp only
  split
  · exact State.fit_toRun config.limits
  · exact config

/-- R127, R162: a reception that begins keeps the qualifiers, or a pending restart puts them at rest. -/
theorem State.fit_beginReception {s : State} (h : s.qualifiers.Fit) : s.beginReception.qualifiers.Fit := by
  by_cases rested : s.fp.link.phase = .rested
  · cases pending : s.fp.restartPending with
    | false =>
      rw [State.beginReception_of_rested rested pending]
      exact h
    | true =>
      rw [State.beginReception_of_restart rested pending, State.qualifiers_setPhase]
      exact State.fit_warmRestart h.limits
  · rwa [State.beginReception_of_not_rested rested]

/-! ### The changes of RUN -/

/-- R52 to R57: a sweep steps the enabled gates and changes no other qualifier. -/
theorem State.fit_sweep {s : State} (h : s.qualifiers.Fit) (run : s.operating = .run) : s.work.sweep.st.qualifiers.Fit := by
  have swept : s.work.sweep.st.qualifiers = { s.qualifiers with gates := s.gateRt.mapIdx fun g rt => s.sweptGate g rt } := by
    have outputs : ∀ w : Work, w.writeOutputs.st.qualifiers = w.st.qualifiers :=
      foldl_keeps (fun w : Work => w.st.qualifiers) (fun w g => by simp only; split <;> rfl) _
    have chains : ∀ (before : Tab GateRt 32) (s : State), (s.sweepChains before).qualifiers = s.qualifiers := fun before =>
      foldl_keeps State.qualifiers (fun s g => by split <;> simp) _
    exact (chains _ _).trans ((State.qualifiers_raiseAll _ _).trans (outputs _))
  rw [swept]
  refine { h with gates := fun g => ?_, rest := fun config => Operating.noConfusion (run.symm.trans config) }
  rw [Tab.get_mapIdx, State.sweptGate]
  simp only
  split
  · next enabled => exact (h.gates g).step enabled (h.limits.thresholds g enabled).1 _ _
  · exact h.gates g

theorem Qualifiers.Fit.setFeed {q : Qualifiers} (h : q.Fit) (run : q.operating = .run) (d : Fin 2) {m : FeedState × Nat}
    (hm : (q.tables.feeds.get d).Fits m) : Qualifiers.Fit { q with feeds := q.feeds.set d m } := by
  refine { h with feeds := fun j => ?_, rest := fun config => Operating.noConfusion (run.symm.trans config) }
  rw [Tab.get_set]
  split
  · next e => exact e ▸ hm
  · exact h.feeds j

/-- R146, R147: a reading steps its enabled monitor and changes no other qualifier. -/
theorem State.fit_stepFeed {s : State} (h : s.qualifiers.Fit) (run : s.operating = .run) {d : Feed}
    (enabled : (s.tables.feeds.get (feedIx d)).enabled = true) (r : Handover) : (s.stepFeed d r).qualifiers.Fit := by
  have fits := h.setFeed run (feedIx d) (FeedEntry.fits_feedStep enabled (classOf (s.tables.feeds.get (feedIx d)) r)
    (s.feed d).state (s.feed d).count)
  unfold State.stepFeed
  simp only
  split
  · rw [s.qualifiers_onFeed]; exact fits
  · rw [State.qualifiers_raise, s.qualifiers_onFeed]; exact fits

/-- R144, R146: the reading taken steps an enabled monitor; a disabled one takes no step. -/
theorem State.fit_takeReading {s : State} (h : s.qualifiers.Fit) (run : s.operating = .run) (d : Feed) :
    (s.takeReading d).qualifiers.Fit := by
  unfold State.takeReading
  split
  · exact h
  · next r rest _ =>
    have taken : (s.onFeed d fun f => { f with handovers := rest }).qualifiers.Fit := by
      rwa [s.qualifiers_onFeed_of_same rfl rfl]
    simp only
    split
    · next enabled => exact State.fit_stepFeed taken run enabled r
    · exact taken

/-- R133: the channels step at a scan's completion. -/
theorem Qualifiers.Fit.stepChannels {s : State} (h : s.qualifiers.Fit) (run : s.operating = .run)
    (readings : Tab (BitVec 12) 16) : Qualifiers.Fit { s.qualifiers with channels := s.steppedChannels readings } := by
  refine { h with channels := fun c => ?_, rest := fun config => Operating.noConfusion (run.symm.trans config) }
  simp only [State.steppedChannels, Tab.get_mapIdx]
  split
  · next enabled => exact ChannelRt.fits_steppedChannel enabled _ _
  · exact h.channels c

/-- R134: the inputs count their samples at a scan's completion. -/
theorem Qualifiers.Fit.countInputs {s : State} (h : s.qualifiers.Fit) (run : s.operating = .run)
    (samples : BitVec 16) : Qualifiers.Fit { s.qualifiers with inputs := s.countedInputs samples } := by
  refine { h with inputs := fun i => ?_, rest := fun config => Operating.noConfusion (run.symm.trans config) }
  rw [State.countedInputs, Tab.get_mapIdx]
  exact countedInput_changes_lt (h.limits.inputs i).1 _ _ _

@[simp] theorem State.qualifiers_buildL2 (s : State) : s.buildL2.qualifiers = s.qualifiers := rfl

@[simp] theorem State.qualifiers_handOver (s : State) (d : Feed) (outcome : Nat → Option ReadingOutcome)
    (readings : Tab (BitVec 12) 16) : (s.handOver d outcome readings).qualifiers = s.qualifiers := by
  unfold State.handOver
  split
  · rfl
  · exact s.qualifiers_onFeed_of_same rfl rfl

@[simp] theorem Work.qualifiers_applyL0 (w : Work) (outcome : Nat → Option ReadingOutcome) (payload : List Byte) :
    (w.applyL0 outcome payload).st.qualifiers = w.st.qualifiers := by
  refine foldl_keeps (fun w : Work => w.st.qualifiers) (fun w p => ?_) _ w
  unfold Work.applyL0One
  simp only
  split
  · rfl
  split
  · rfl
  · rw [(w.applyOne_frame _ _ p).1]; rfl

/-- The part of a scan's completion up to the L0 placements (R133, R135, R136). -/
def State.scanChannels (readings : Tab (BitVec 12) 16) (s : State) : Work :=
  (s.work.on fun s => ({ s with tio := { s.tio with channels := s.steppedChannels readings, scanInFlight := false } }).raiseAll
    (scanEvents s.tio.channels (s.steppedChannels readings))).applyL0 (s.outcomeAt readings) (s.l0Payload readings)

theorem State.qualifiers_scanChannels (s : State) (readings : Tab (BitVec 12) 16) :
    (s.scanChannels readings).st.qualifiers = { s.qualifiers with channels := s.steppedChannels readings } :=
  (Work.qualifiers_applyL0 _ _ _).trans (State.qualifiers_raiseAll _ _)

/-- R135: after the channels the inputs are counted; L1, L2 and the hand-over to the monitors change no qualifier. -/
theorem State.qualifiers_completeScan (s : State) (samples : BitVec 16) (readings : Tab (BitVec 12) 16) :
    (s.work.completeScan samples readings).st.qualifiers =
      { (s.scanChannels readings).st.qualifiers with inputs := (s.scanChannels readings).st.countedInputs samples } := by
  unfold Work.completeScan
  simp only [Work.on_st, State.qualifiers_handOver, State.qualifiers_buildL2, Work.qualifiers_applyRun]
  rfl

theorem State.fit_completeScan {s : State} (h : s.qualifiers.Fit) (run : s.operating = .run) (samples : BitVec 16)
    (readings : Tab (BitVec 12) 16) : (s.work.completeScan samples readings).st.qualifiers.Fit := by
  have scanned := s.qualifiers_scanChannels readings
  rw [s.qualifiers_completeScan]
  exact Qualifiers.Fit.countInputs (scanned ▸ h.stepChannels run readings) ((congrArg Qualifiers.operating scanned).trans run) samples

/-! ### Management commands -/

/-- R155: a table is written in CONFIG only, where the qualifiers are at rest, or it is the WATCH table, which limits none. -/
theorem State.fit_acceptWrite {s : State} (h : s.qualifiers.Fit) {table : TableId} (hw : s.operating = .config ∨ table = .watch)
    {i : Nat} {bs : List Byte} {t : Tables} {clamped : Bool} (written : s.tables.write table i bs = some (t, clamped)) :
    (s.acceptWrite table i t).qualifiers.Fit := by
  have accepted : (s.acceptWrite table i t).qualifiers = { s.qualifiers with tables := t } := by
    unfold State.acceptWrite
    split
    · split <;> rfl
    all_goals rfl
  rw [accepted]
  obtain config | rfl := hw
  · rw [h.rest config]
    exact Qualifiers.fit_atRest .config (h.limits.write written)
  · obtain ⟨w, rfl⟩ := Tables.write_watch written
    exact { h with limits := h.limits.write written, rest := fun config => by rw [h.rest config]; rfl }

/-- A management command keeps the qualifiers fit. -/
def KeepsFit (command : Work → Served) : Prop := ∀ w : Work, w.st.qualifiers.Fit → (command w).work.st.qualifiers.Fit

theorem keepsFit_of_same {command : Work → Served} (same : ∀ w, (command w).work.st.qualifiers = w.st.qualifiers) : KeepsFit command :=
  fun w h => same w ▸ h

theorem Work.enterConfig_keepsFit : KeepsFit Work.enterConfig := fun w h => by
  unfold Work.enterConfig
  split
  · exact h
  · exact State.fit_toConfig h.limits

theorem Work.enterRun_keepsFit : KeepsFit Work.enterRun := fun w h => by
  unfold Work.enterRun
  split
  · exact h
  · split
    · exact h
    · exact State.fit_toRun (s := { w.st with validated := true }) h.limits

theorem Work.readTable_keepsFit (req : List Byte) : KeepsFit (Work.readTable req) := fun w h => by
  unfold Work.readTable
  split
  · exact h
  · simp only
    split
    · exact h
    · exact (State.qualifiers_drawWatch _ _).symm ▸ h

theorem Work.writeTable_keepsFit (req : List Byte) : KeepsFit (Work.writeTable req) := fun w h => by
  unfold Work.writeTable
  split
  · exact h
  · next table _ =>
    split
    · exact h
    · next allowed =>
      have hw : w.st.operating = .config ∨ table = .watch := by
        cases ho : w.st.operating <;> simp_all
      simp only
      split
      · exact h
      · next written => exact State.fit_acceptWrite h hw written

theorem Work.readSignals_keepsFit (req : List Byte) : KeepsFit (Work.readSignals req) := fun w h => by
  unfold Work.readSignals
  simp only
  split <;> exact h

theorem Work.writeSignal_keepsFit (index : Nat) (value : Int) : KeepsFit (Work.writeSignal index value) := fun w h => by
  unfold Work.writeSignal
  split
  · exact h
  · split <;> exact h

theorem Work.force_keepsFit (index : Nat) (value : Int) : KeepsFit (Work.force index value) := fun w h => by
  unfold Work.force
  split
  · exact h
  split
  · exact h
  split
  · exact h
  split <;> exact h

theorem Work.release_keepsFit (index : Nat) : KeepsFit (Work.release index) := fun w h => by
  unfold Work.release
  split
  · exact h
  · simp only; split <;> exact h

theorem Work.sendOnce_keepsFit (line slot : Nat) : KeepsFit (Work.sendOnce line slot) := fun w h => by
  unfold Work.sendOnce
  split
  · exact h
  split
  · split
    · exact h
    · simp only; split <;> exact h
  · exact h

theorem withRequest_keepsFit {command : Work → Served} (hc : KeepsFit command) (need : Nat) (req : List Byte) :
    KeepsFit (withRequest need req command) := fun w h => by
  unfold withRequest
  split
  · exact h
  · exact hc w h

theorem State.fit_serve {s : State} (h : s.qualifiers.Fit) {command : Work → Served} (hc : KeepsFit command) (tag : BitVec 6)
    (code : Nat) : (s.serve tag code command).qualifiers.Fit := by
  have scored : s.festoonGood.qualifiers.Fit := s.qualifiers_festoonGood ▸ State.fit_beginReception h
  exact (Work.qualifiers_close _).symm ▸ hc s.festoonGood.work scored

/-! ### Every command -/

theorem State.fit_of_occurs {s t : State} (h : s.qualifiers.Fit) {possible : Bool} {next : State}
    (hn : possible = true → next.qualifiers.Fit) (ht : s.occurs possible next = .next t) : t.qualifiers.Fit := by
  obtain rfl := Host.Outcome.next.inj ht
  split
  · next taken => exact hn (Bool.and_eq_true_iff.mp taken).2
  · exact h

theorem State.fit_of_manage {s t : State} (h : s.qualifiers.Fit) {tag : BitVec 6} {code need : Nat} {req : List Byte}
    {command : Work → Served} (hc : KeepsFit command) (ht : s.manage tag code need req command = .next t) : t.qualifiers.Fit :=
  State.fit_of_occurs h (fun _ => State.fit_serve h (withRequest_keepsFit hc need req) tag code) ht

theorem State.run_of_possible {s : State} {other : Bool} (h : (s.operating == .run && other) = true) : s.operating = .run :=
  beq_iff_eq.mp (Bool.and_eq_true_iff.mp h).1

end Sys2Proof.Machine
end

section
namespace Sys2Proof.Machine

/-- Every command keeps the qualifiers fit: most keep them as they are, the others are the changes above. -/
theorem exec_keeps_fit {c : Instr} {s t : State} (h : s.qualifiers.Fit) (ht : exec c s = .next t) : t.qualifiers.Fit := by
  have begun := State.fit_beginReception h
  cases c with
  | powerOn strap | resetInputRelease strap =>
    obtain rfl := Host.Outcome.next.inj ht
    exact State.fit_powerOn _ _
  | resetInputAssert =>
    obtain rfl := Host.Outcome.next.inj ht
    rwa [s.qualifiers_holdReset]
  | warmRestart =>
    refine State.fit_of_occurs h (fun _ => ?_) ht
    rw [State.qualifiers_setPhase]
    exact State.fit_warmRestart h.limits
  | status tag req | restart tag req | readEvents tag req | releaseAll tag req =>
    exact State.fit_of_manage h (keepsFit_of_same fun _ => rfl) ht
  | enterConfig tag req => exact State.fit_of_manage h Work.enterConfig_keepsFit ht
  | enterRun tag req => exact State.fit_of_manage h Work.enterRun_keepsFit ht
  | readTable tag req => exact State.fit_of_manage h (Work.readTable_keepsFit req) ht
  | writeTable tag req => exact State.fit_of_manage h (Work.writeTable_keepsFit req) ht
  | readSignals tag req => exact State.fit_of_manage h (Work.readSignals_keepsFit req) ht
  | writeSignal tag req => exact State.fit_of_manage h (Work.writeSignal_keepsFit _ _) ht
  | force tag req => exact State.fit_of_manage h (Work.force_keepsFit _ _) ht
  | release tag req => exact State.fit_of_manage h (Work.release_keepsFit _) ht
  | sendOnce tag req => exact State.fit_of_manage h (Work.sendOnce_keepsFit _ _) ht
  | unknownCommand tag payload =>
    exact State.fit_of_occurs h (fun _ => State.fit_serve h (keepsFit_of_same fun _ => rfl) tag _) ht
  | sweep =>
    refine State.fit_of_occurs h (fun possible => ?_) ht
    rw [Work.qualifiers_close]
    exact State.fit_sweep h (State.run_of_possible possible)
  | scanCompletion samples readings =>
    refine State.fit_of_occurs h (fun possible => ?_) ht
    rw [Work.qualifiers_close]
    exact State.fit_completeScan h (State.run_of_possible possible) samples readings
  | feedReading feed =>
    exact State.fit_of_occurs h (fun possible => State.fit_takeReading h (State.run_of_possible possible) feed) ht
  | festoonDataAccepted f =>
    refine State.fit_of_occurs h (fun _ => ?_) ht
    unfold State.takeData
    split <;> simp [h, begun]
  | festoonPoll f =>
    refine State.fit_of_occurs h (fun _ => ?_) ht
    unfold State.takePoll
    split <;> simp [h, begun]
  | festoonReceptionStart => exact State.fit_of_occurs h (fun _ => begun) ht
  | frameError line chars ended =>
    cases line with
    | sp | cp => exact State.fit_of_occurs h (fun _ => by simpa using h) ht
    | fp => exact State.fit_of_occurs h (fun _ => by simpa using begun) ht
  | strayFrame line f ended =>
    cases line with
    | sp | cp => exact State.fit_of_occurs h (fun _ => by simpa using h) ht
    | fp => exact State.fit_of_occurs h (fun _ => by simpa using begun) ht
  | detachTimerExpiry line =>
    cases line with
    | sp | cp => exact State.fit_of_occurs h (fun _ => by simpa using h) ht
    | fp =>
      refine State.fit_of_occurs h (fun _ => ?_) ht
      exact h
  | ageTimerExpiry | searchWindowExpiry | hailEnd | l2ChainBuild | scanTimerExpiry =>
    refine State.fit_of_occurs h (fun _ => ?_) ht
    exact h
  | masterResponseAccepted line f | hailReplyTaken f | festoonDataAnswer | mgmtReplyStart | cycleTimerExpiry line | outTurnStart line
  | outFrameEnd line | turnBoundary line | inTurn line | pollEnd line | responseWindowExpiry line | firstHail | searchTimerExpiry
  | staleTimerExpiry slot | portHold line | portRelease line | lineRest line =>
    exact State.fit_of_occurs h (fun _ => by simpa using h) ht

/-- R52 to R57, R60, R61, R133, R134, R144: after a step under the invariant the qualifiers fit. -/
theorem step_keeps_fit {s t : State} (h : s.Inv) (ht : step s = .next t) : t.qualifiers.Fit := by
  unfold step at ht
  split at ht
  · obtain rfl := Host.Outcome.next.inj ht
    exact h.qualifiers_fit
  · next rest _ => exact exec_keeps_fit (s := s.withPending rest) h.qualifiers_fit ht

/-- Settles O57: the three invariants are the qualifiers' fit, which every command keeps. -/
theorem stepKeepsQualifiersConsistent : Obligations.StepKeepsQualifiersConsistent :=
  ⟨fun _ _ h ht => (step_keeps_fit h ht).gateInv, fun _ _ h ht => ⟨(step_keeps_fit h ht).feedInv, (step_keeps_fit h ht).trolleyInv⟩⟩

end Sys2Proof.Machine
end

/-! # Proofs about frames and receptions (R65 to R69)

What `judge` answers is said once per reach of a reception: what a header lets through, and what a complete frame with any two CRC bytes is
judged to be. Sent frames, cut frames, bad stop bits and wrong CRC bytes are all read off these. -/

section
namespace Sys2Proof.Machine

/-! ### The bytes of a header (R65) -/

theorem byteAt_cons_zero (b : Byte) (bs : List Byte) : byteAt (b :: bs) 0 = b.toNat := rfl

theorem byteAt_cons_succ (b : Byte) (bs : List Byte) (k : Nat) : byteAt (b :: bs) (k + 1) = byteAt bs k := rfl

theorem byteAt_append (xs ys : List Byte) (k : Nat) : byteAt (xs ++ ys) (xs.length + k) = byteAt ys k := by
  simp [byteAt, List.getD, List.getElem?_append_right]

theorem kindCode_le (k : Kind) : kindCode k ≤ 5 := by cases k <;> decide

theorem kindOfCode_kindCode (k : Kind) : kindOfCode (kindCode k) = some k := by cases k <;> rfl

theorem kindOfCode_of_ge {n : Nat} (unused : 6 ≤ n) : kindOfCode n = none := by
  obtain ⟨m, rfl⟩ : ∃ m, n = m + 6 := ⟨n - 6, by omega⟩
  rfl

theorem kindLimit_le (k : Kind) : kindLimit k ≤ 48 := by cases k <;> decide

theorem headByte_toNat (f : Frame) : (headByte f).toNat = f.address.toNat + 32 * kindCode f.kind := by
  have haddress := f.address.isLt
  have hkind := kindCode_le f.kind
  simp only [headByte, BitVec.toNat_ofNat]
  omega

theorem tagByte_toNat (f : Frame) : (tagByte f).toNat = f.tag.toNat + 64 * f.attn.toNat + 128 * f.ovf.toNat := by
  have htag := f.tag.isLt
  have hattn := f.attn.toNat_le
  have hovf := f.ovf.toNat_le
  simp only [tagByte, BitVec.toNat_ofNat]
  omega

theorem kindOfCode_headByte (f : Frame) : kindOfCode ((headByte f).toNat / 32) = some f.kind := by
  have haddress := f.address.isLt
  rw [headByte_toNat, show (f.address.toNat + 32 * kindCode f.kind) / 32 = kindCode f.kind by omega, kindOfCode_kindCode]

theorem address_of_headByte (f : Frame) : BitVec.ofNat 5 (headByte f).toNat = f.address := by
  have haddress := f.address.isLt
  refine BitVec.eq_of_toNat_eq ?_
  rw [headByte_toNat, BitVec.toNat_ofNat]
  omega

theorem tag_of_tagByte (f : Frame) : BitVec.ofNat 6 (tagByte f).toNat = f.tag := by
  have htag := f.tag.isLt
  refine BitVec.eq_of_toNat_eq ?_
  rw [tagByte_toNat, BitVec.toNat_ofNat]
  omega

theorem attn_of_tagByte (f : Frame) : ((tagByte f).toNat / 64 % 2 == 1) = f.attn := by
  have htag := f.tag.isLt
  rw [tagByte_toNat, show (f.tag.toNat + 64 * f.attn.toNat + 128 * f.ovf.toNat) / 64 % 2 = f.attn.toNat by
    have hattn := f.attn.toNat_le
    omega]
  cases f.attn <;> rfl

theorem ovf_of_tagByte (f : Frame) : ((tagByte f).toNat / 128 == 1) = f.ovf := by
  have htag := f.tag.isLt
  rw [tagByte_toNat, show (f.tag.toNat + 64 * f.attn.toNat + 128 * f.ovf.toNat) / 128 = f.ovf.toNat by
    have hattn := f.attn.toNat_le
    omega]
  cases f.ovf <;> rfl

theorem frameWithinLimit_iff (f : Frame) : frameWithinLimit f = true ↔ f.payload.length ≤ kindLimit f.kind := decide_eq_true_iff

theorem payloadLength_toNat {f : Frame} (fits : frameWithinLimit f = true) :
    (BitVec.ofNat 8 f.payload.length).toNat = f.payload.length := by
  have h := (frameWithinLimit_iff f).mp fits
  have hlimit := kindLimit_le f.kind
  rw [BitVec.toNat_ofNat]
  omega

/-- R68: two bytes carry a CRC exactly where they are its upper and its lower byte. -/
theorem crc_eq_bytes_iff (r : BitVec 16) (x y : Byte) :
    r = BitVec.ofNat 16 (256 * x.toNat + y.toNat) ↔ x = r.extractLsb' 8 8 ∧ y = r.extractLsb' 0 8 := by
  have hr := r.isLt
  have hx := x.isLt
  have hy := y.isLt
  simp only [← BitVec.toNat_inj, BitVec.toNat_ofNat, BitVec.extractLsb'_toNat, Nat.shiftRight_eq_div_pow]
  omega

/-! ### The first faults of a reception (R69, steps 1 to 3) -/

theorem judge_of_bad_lead {c : LineChar} (cs : List LineChar) (lead : c.data ≠ 0xC3#8) : judge (c :: cs) = .error .lead := by
  simp only [judge, List.map_cons, List.headD_cons]
  exact if_pos lead

/-- A reception whose header passes the steps of lead, kind and length as far as it was received, and that rests before the end its
length byte names, fails the CRC step. -/
theorem judge_of_short {cs : List LineChar} {k : Kind} (lead : (cs.map (·.data)).headD 0 = 0xC3#8)
    (kind : 2 ≤ cs.length → kindOfCode (byteAt (cs.map (·.data)) 1 / 32) = some k)
    (limit : 4 ≤ cs.length → byteAt (cs.map (·.data)) 3 ≤ kindLimit k)
    (short : 4 ≤ cs.length → cs.length < 6 + byteAt (cs.map (·.data)) 3) : judge cs = .error .crc := by
  simp only [judge, List.length_map]
  rw [if_neg (not_not_intro lead)]
  by_cases two : cs.length < 2
  · exact if_pos two
  · rw [if_neg two, kind (by omega)]
    by_cases four : cs.length < 4
    · exact if_pos four
    · simp only
      rw [if_neg four, if_neg (by have := limit (by omega); omega), if_pos (short (by omega))]

theorem judge_of_bad_kind {c d : LineChar} (cs : List LineChar) (lead : c.data = 0xC3#8) (kind : 6 ≤ d.data.toNat / 32) :
    judge (c :: d :: cs) = .error .kind := by
  simp only [judge, List.map_cons, List.headD_cons, List.length_cons, byteAt_cons_succ, byteAt_cons_zero]
  rw [if_neg (not_not_intro lead), if_neg (by omega), kindOfCode_of_ge kind]

theorem judge_of_bad_length {c d g n : LineChar} (cs : List LineChar) {k : Kind} (lead : c.data = 0xC3#8)
    (kind : kindOfCode (d.data.toNat / 32) = some k) (length : kindLimit k < n.data.toNat) :
    judge (c :: d :: g :: n :: cs) = .error .length := by
  simp only [judge, List.map_cons, List.headD_cons, List.length_cons, byteAt_cons_succ, byteAt_cons_zero]
  rw [if_neg (not_not_intro lead), if_neg (by omega), kind]
  simp only
  rw [if_neg (by omega), if_pos length]

/-! ### Complete receptions (R69, step 4) -/

/-- A reception that carries a frame's covered bytes and then two more is that frame exactly where every stop bit up to them was good and
they are its CRC. -/
theorem judge_of_complete {f : Frame} (fits : frameWithinLimit f = true) {cs : List LineChar} {x y : Byte} {later : List Byte}
    (bytes : cs.map (·.data) = 0xC3#8 :: coveredBytes f ++ x :: y :: later) :
    judge cs = if (cs.take (6 + f.payload.length)).all (·.stopGood) = true ∧
      x = (crc (coveredBytes f)).extractLsb' 8 8 ∧ y = (crc (coveredBytes f)).extractLsb' 0 8 then .ok f else .error .crc := by
  have hlen := payloadLength_toNat fits
  have count : byteAt (cs.map (·.data)) 3 = f.payload.length := by rw [bytes]; exact hlen
  have covered : ((cs.map (·.data)).drop 1).take (3 + f.payload.length) = coveredBytes f := by
    rw [bytes]
    exact List.take_left' (by simp [coveredBytes]; omega)
  have payload : ((cs.map (·.data)).drop 4).take f.payload.length = f.payload := by
    rw [bytes]
    exact List.take_left' rfl
  have header : (0xC3#8 :: coveredBytes f).length = 4 + f.payload.length := by simp [coveredBytes]; omega
  have upper : byteAt (cs.map (·.data)) (4 + f.payload.length) = x.toNat := by
    rw [bytes, ← header]
    exact byteAt_append _ _ 0
  have lower : byteAt (cs.map (·.data)) (5 + f.payload.length) = y.toNat := by
    rw [bytes, show 5 + f.payload.length = (0xC3#8 :: coveredBytes f).length + 1 by omega]
    exact byteAt_append _ _ 1
  have total : (cs.map (·.data)).length = 6 + f.payload.length + later.length := by
    rw [bytes]; simp [coveredBytes]; omega
  have lead : (cs.map (·.data)).headD 0 = 0xC3#8 := by rw [bytes]; rfl
  have kind : kindOfCode (byteAt (cs.map (·.data)) 1 / 32) = some f.kind := by rw [bytes]; exact kindOfCode_headByte f
  have one : byteAt (cs.map (·.data)) 1 = (headByte f).toNat := by rw [bytes]; rfl
  have two : byteAt (cs.map (·.data)) 2 = (tagByte f).toNat := by rw [bytes]; rfl
  have limit := (frameWithinLimit_iff f).mp fits
  simp only [judge]
  rw [if_neg (not_not_intro lead), if_neg (by omega), kind]
  simp only
  rw [if_neg (by omega), count, if_neg (by omega), if_neg (by omega), covered, payload, upper, lower, one, two,
    address_of_headByte, tag_of_tagByte, attn_of_tagByte, ovf_of_tagByte]
  by_cases stops : (cs.take (6 + f.payload.length)).all (·.stopGood) = true
  · by_cases sum : x = (crc (coveredBytes f)).extractLsb' 8 8 ∧ y = (crc (coveredBytes f)).extractLsb' 0 8
    · rw [if_neg (by simpa using stops), if_neg (not_not_intro ((crc_eq_bytes_iff _ x y).mpr sum)), if_pos ⟨stops, sum⟩]
    · rw [if_neg (by simpa using stops), if_pos (fun h => sum ((crc_eq_bytes_iff _ x y).mp h)), if_neg fun h => sum h.2]
  · rw [if_pos (by simpa using stops), if_neg fun h => stops h.1]

/-! ### The characters of a sent frame -/

theorem length_frameBytes (f : Frame) : (frameBytes f).length = 6 + f.payload.length := by
  simp [frameBytes, coveredBytes]
  omega

theorem length_frameChars (f : Frame) : (frameChars f).length = 6 + f.payload.length := by
  rw [frameChars, List.length_map, length_frameBytes]

theorem data_frameChars (f : Frame) : (frameChars f).map (·.data) = frameBytes f := by simp [frameChars, Function.comp_def]

theorem frameBytes_append (f : Frame) (later : List Byte) : frameBytes f ++ later = 0xC3#8 :: coveredBytes f ++
    (crc (coveredBytes f)).extractLsb' 8 8 :: (crc (coveredBytes f)).extractLsb' 0 8 :: later := by simp [frameBytes]

/-- A reception that carries a frame's bytes is that frame exactly where their stop bits were good. -/
theorem judge_of_frameBytes {f : Frame} (fits : frameWithinLimit f = true) {cs : List LineChar} {later : List Byte}
    (bytes : cs.map (·.data) = frameBytes f ++ later) :
    judge cs = if (cs.take (6 + f.payload.length)).all (·.stopGood) = true then .ok f else .error .crc := by
  rw [judge_of_complete fits (bytes.trans (frameBytes_append f later))]
  simp

/-- R65, R68, R69: a sent frame is judged to be that frame, whatever follows before the rest. -/
theorem judge_frameChars {f : Frame} (fits : frameWithinLimit f = true) (later : List LineChar) :
    judge (frameChars f ++ later) = .ok f := by
  have bytes : (frameChars f ++ later).map (·.data) = frameBytes f ++ later.map (·.data) := by rw [List.map_append, data_frameChars]
  rw [judge_of_frameBytes fits bytes, List.take_left' (length_frameChars f), if_pos (by simp [frameChars])]

/-- A line that rests within a frame fails the CRC step. -/
theorem judge_take_frameChars {f : Frame} (fits : frameWithinLimit f = true) {m : Nat} (begun : 1 ≤ m)
    (cut : m < (frameChars f).length) : judge ((frameChars f).take m) = .error .crc := by
  have bytes : ((frameChars f).take m).map (·.data) = (frameBytes f).take m := by rw [List.map_take, data_frameChars]
  have byte : ∀ k, k < m → byteAt ((frameBytes f).take m) k = byteAt (frameBytes f) k := fun k hk => by
    simp [byteAt, List.getD, hk]
  have length : ((frameChars f).take m).length = m := by rw [List.length_take]; omega
  have count : byteAt (frameBytes f) 3 = f.payload.length := payloadLength_toNat fits
  rw [length_frameChars] at cut
  refine judge_of_short (k := f.kind) ?_ ?_ ?_ ?_ <;> rw [bytes]
  · obtain ⟨n, rfl⟩ : ∃ n, m = n + 1 := ⟨m - 1, by omega⟩
    rfl
  · intro two
    rw [length] at two
    rw [byte 1 (by omega)]
    exact kindOfCode_headByte f
  · intro four
    rw [length] at four
    rw [byte 3 (by omega), count]
    exact (frameWithinLimit_iff f).mp fits
  · intro four
    rw [length] at four
    rw [length, byte 3 (by omega), count]
    exact cut

/-- A character with a bad stop bit within a frame fails the CRC step. -/
theorem judge_modify_frameChars {f : Frame} (fits : frameWithinLimit f = true) {i : Nat} (inside : i < (frameChars f).length)
    (later : List LineChar) :
    judge ((frameChars f).modify i (fun c => { c with stopGood := false }) ++ later) = .error .crc := by
  have bytes : ((frameChars f).modify i (fun c => { c with stopGood := false }) ++ later).map (·.data) =
      frameBytes f ++ later.map (·.data) := by
    rw [List.map_append, ← data_frameChars f]
    congr 1
    refine List.ext_getElem (by simp) fun j h1 h2 => ?_
    simp only [List.getElem_map, List.getElem_modify]
    split <;> rfl
  rw [judge_of_frameBytes fits bytes, List.take_left' (by rw [List.length_modify, length_frameChars]), if_neg fun good => ?_]
  have bad := List.all_eq_true.mp good _ (List.getElem_mem (n := i) (by rw [List.length_modify]; exact inside))
  rw [List.getElem_modify, if_pos rfl] at bad
  exact Bool.noConfusion bad

/-- Any two characters but those of the CRC in its place fail the CRC step. -/
theorem judge_of_wrong_crc {f : Frame} (fits : frameWithinLimit f = true) {body : List LineChar} {x y : LineChar}
    (sent : frameChars f = body ++ [x, y]) {x' y' : LineChar} (differs : (x'.data, y'.data) ≠ (x.data, y.data))
    (later : List LineChar) : judge (body ++ x' :: y' :: later) = .error .crc := by
  have bytes : body.map (·.data) ++ [x.data, y.data] = 0xC3#8 :: coveredBytes f ++
      [(crc (coveredBytes f)).extractLsb' 8 8, (crc (coveredBytes f)).extractLsb' 0 8] := by
    have h := congrArg (List.map (·.data)) sent
    rw [data_frameChars, ← List.append_nil (frameBytes f), frameBytes_append] at h
    simpa using h.symm
  obtain ⟨head, tail⟩ := List.append_inj' bytes rfl
  obtain ⟨hx, hy⟩ : x.data = _ ∧ y.data = _ := by simpa using tail
  rw [judge_of_complete fits (x := x'.data) (y := y'.data) (later := later.map (·.data)) (by simp [head]), if_neg]
  rintro ⟨-, hx', hy'⟩
  exact differs (by rw [hx', hy', hx, hy])

/-! ### The CRC (R68) -/

theorem crcShift_eq (r : BitVec 16) : crcShift r = if r.getLsbD 15 then (r <<< 1) ^^^ 0x1021 else r <<< 1 := by
  rw [crcShift, BitVec.msb_eq_getLsbD_last]
  rfl

theorem crc_concat (bs : List Byte) (b : Byte) : crc (bs ++ [b]) = Nat.repeat crcShift 8 (crc bs ^^^ (b.setWidth 16 <<< 8)) := by
  rw [crc, List.foldl_append]
  rfl

theorem crcBytes_eq (r : BitVec 16) :
    [r.extractLsb' 8 8, r.extractLsb' 0 8] = [BitVec.ofNat 8 (r.toNat / 256), BitVec.ofNat 8 r.toNat] := by
  have upper : r.extractLsb' 8 8 = BitVec.ofNat 8 (r.toNat / 256) := by
    simp [← BitVec.toNat_inj, BitVec.extractLsb'_toNat, Nat.shiftRight_eq_div_pow]
  have lower : r.extractLsb' 0 8 = BitVec.ofNat 8 r.toNat := by simp [← BitVec.toNat_inj, BitVec.extractLsb'_toNat]
  rw [upper, lower]

/-- Settles O51: sent frames are complete receptions with their own CRC, and the layout is that of `frameBytes`, constant by constant. -/
theorem sentFramesAreJudgedGood : Obligations.SentFramesAreJudgedGood := by
  refine ⟨fun f later fits => judge_frameChars fits later, fun f => ?_, ?_⟩
  · intro kind limit covered
    have hkind : kindCode f.kind = kind := by cases h : f.kind <;> simp only [kind, h] <;> rfl
    have hlimit : kindLimit f.kind = limit := by cases h : f.kind <;> simp only [limit, h] <;> rfl
    have hcovered : coveredBytes f = covered := by
      simp only [covered, coveredBytes, headByte, tagByte, hkind]
      cases f.attn <;> cases f.ovf <;> rfl
    exact ⟨by rw [frameBytes, crcBytes_eq, hcovered]; rfl, rfl, hlimit ▸ frameWithinLimit_iff f⟩
  · intro shift
    have hshift : crcShift = shift := funext crcShift_eq
    exact ⟨rfl, hshift ▸ crc_concat, by decide +kernel, by decide +kernel⟩

/-- Settles O52, a fault at a time: each is the first that `judge` meets. -/
theorem receptionsFailAtTheirFirstStep : Obligations.ReceptionsFailAtTheirFirstStep :=
  fun _ later fits => ⟨fun _ cs lead => judge_of_bad_lead cs lead, fun _ _ cs lead kind => judge_of_bad_kind cs lead kind,
    fun _ _ _ _ cs _ lead kind length => judge_of_bad_length cs lead kind length,
    fun _ begun cut => judge_take_frameChars fits begun cut, fun _ inside => judge_modify_frameChars fits inside later,
    fun _ _ _ sent _ _ differs => judge_of_wrong_crc fits sent differs later⟩

end Sys2Proof.Machine
end

/-! # Proofs about what a reception, a rest or a timer does to its port (R69, R72, R77 to R81, R90, R108, R114, R124, R127, R162)

Refused requests come first, then scored receptions with the windows they outlast, then rests, the beginning of a reception and the
timers. The detachment of a master port, slot by slot, comes last. -/

section
namespace Sys2Proof.Machine

/-! ### Refused requests (R72, R164) -/

/-- R72: a request that is too short for its command is answered RANGE and does nothing else. -/
theorem State.manage_of_short {s : State} (awake : s.awake) (receives : s.festoonReceives = true) (tag : BitVec 6) (code : Nat)
    {need : Nat} {req : List Byte} (short : req.length < need) (room : need ≤ 48) (command : Work → Served) :
    s.manage tag code need req command =
      .next (s.festoonGood.replying tag code 0x03 [] s.festoonGood.fp.link.rate) := by
  rw [State.manage_eq awake receives tag code need (decide_eq_true (by omega)) command, withRequest_of_lt short, State.refused_close]
  rfl

/-- R72: an empty payload or an unknown code is answered UNKNOWN. -/
theorem exec_unknownCommand {s : State} (awake : s.awake) (receives : s.festoonReceives = true) (tag : BitVec 6) {payload : List Byte}
    (unknown : unknownPayload payload = true) : exec (.unknownCommand tag payload) s =
      .next (s.festoonGood.replying tag (byteAt payload 0) 0x07 [] s.festoonGood.fp.link.rate) := by
  have served : s.serve tag (byteAt payload 0) (Work.refuse .unknown) =
      s.festoonGood.replying tag (byteAt payload 0) 0x07 [] s.festoonGood.fp.link.rate :=
    State.refused_close s.festoonGood .unknown tag _ _
  exact (State.occurs_of _ awake (by rw [receives, unknown]; rfl)).trans (congrArg _ served)

/-- Settles O9: every short request meets the same check, and an unknown code is no request at all. -/
theorem unknownAndShortRequestsAnswered : Obligations.UnknownAndShortRequestsAnswered := by
  intro tag s awake receives u range
  have short : ∀ (code need : Nat) (req : List Byte) (command : Work → Served), need ≤ 48 → req.length < need →
      s.manage tag code need req command = range code := fun code need req command room short =>
    State.manage_of_short awake receives tag code short room command
  refine ⟨exec_unknownCommand awake receives tag rfl, fun code rest unknown length => ?_,
    fun req => short 0x05 4 req _ (by decide), fun req => short 0x06 3 req _ (by decide), fun req => short 0x07 3 req _ (by decide),
    fun req => short 0x08 4 req _ (by decide), fun req => short 0x09 4 req _ (by decide), fun req => short 0x0A 2 req _ (by decide),
    fun req => short 0x0C 2 req _ (by decide), fun req => short 0x0D 1 req _ (by decide)⟩
  refine exec_unknownCommand awake receives tag ?_
  rw [unknownPayload, unknown, List.length_cons, decide_eq_true (by omega)]
  rfl

end Sys2Proof.Machine
end

section
namespace Sys2Proof.Machine

/-! ### Windows that end during a reception (R90, R108) -/

/-- R69: a reception that ended on a line changed its link and the queue of events alone: what it leaves to the port's turns. -/
structure State.Judged (l : MasterLine) (s t : State) : Prop where
  turn : (t.port l).turn = (s.port l).turn
  sets : ∀ k, t.activeEntry l k = s.activeEntry l k
  hail : t.hail = s.hail

theorem State.Judged.of_frame {l : MasterLine} {s t : State}
    (frame : t = { s.setLink (masterLine l) (t.link (masterLine l)) with events := t.events, ovf := t.ovf }) : s.Judged l t := by
  rw [State.setLink_master] at frame
  have port : t.port l = { s.port l with link := t.link (masterLine l) } := by
    rw [frame]; cases l <;> rfl
  have attached : t.attached = s.attached := by rw [frame]; simp
  have cab : t.cp.state = s.cp.state := by rw [frame]; cases l <;> rfl
  exact ⟨by rw [port], fun k => State.activeEntry_congr attached cab l k, by rw [frame]; simp⟩

/-- R90: a response window that ended during a reception is a miss of its slot. -/
theorem State.windowOver_of_window {l : MasterLine} {k : SlotIx} {e : MasterIx} {s : State} (turn : (s.port l).turn = .window k)
    (entry : s.activeEntry l k = some e) : MissTaken l k e s (s.work.windowOver l true).close := by
  have missed : s.work.windowOver l true = s.work.miss l k := by simp [Work.windowOver, turn]
  exact missed ▸ State.miss_taken entry

/-- R108: where no response window was open, a search window that was closes. -/
theorem State.windowOver_of_no_window {l : MasterLine} {s : State} (turn : ∀ k, (s.port l).turn ≠ .window k) :
    (s.work.windowOver l true).close = if l = .sp ∧ s.hail = .window then { s with hail := .waiting } else s := by
  have closes : s.work.windowOver l true =
      if l == .sp && s.hail == .window then s.work.on fun s => { s with hail := .waiting } else s.work := by
    cases h : (s.port l).turn with
    | window k => exact absurd h (turn k)
    | none | due _ _ | outFrame _ | outGap _ | poll _ | inGap _ | missed _ => simp [Work.windowOver, h]
  rw [closes]
  by_cases opens : l = .sp ∧ s.hail = .window
  · rw [if_pos opens, if_pos (by simpa using opens)]
    exact State.close_work { s with hail := .waiting }
  · rw [if_neg opens, if_neg (by simpa using opens)]
    exact State.close_work s

/-- R90, R108: the three ends of a reception that a master port does not take, in the words of the part before it. -/
theorem State.Judged.windowOver {l : MasterLine} {s t : State} (h : s.Judged l t) :
    (t.work.windowOver l false).close = t ∧
    (∀ k e, (s.port l).turn = .window k → s.activeEntry l k = some e → MissTaken l k e t (t.work.windowOver l true).close) ∧
    ((∀ k, (s.port l).turn ≠ .window k) → (t.work.windowOver l true).close =
      if l = .sp ∧ s.hail = .window then { t with hail := .waiting } else t) := by
  refine ⟨State.close_work t, fun k e turn entry => ?_, fun turn => ?_⟩
  · exact State.windowOver_of_window (h.turn.trans turn) ((h.sets k).trans entry)
  · exact (State.windowOver_of_no_window fun k => h.turn ▸ turn k).trans (by rw [h.hail])

/-! ### Stray frames and frame errors (R69, R77, R78) -/

theorem exec_strayFrame_master {l : MasterLine} {f : Frame} {s : State} (awake : s.awake) (fits : frameWithinLimit f = true)
    (receives : s.masterReceives l = true) (stray : s.isStray (masterLine l) f = true) (ended : Bool) :
    exec (.strayFrame (masterLine l) f ended) s =
      .next (((s.judged (masterLine l)).scoreGood (masterLine l)).work.windowOver l ended).close := by
  cases l <;> exact State.occurs_of _ awake (by rw [fits, receives]; exact stray)

theorem exec_strayFrame_festoon {f : Frame} {s : State} (awake : s.awake) (fits : frameWithinLimit f = true)
    (receives : s.festoonReceives = true) (stray : s.beginReception.isStray .fp f = true) (ended : Bool) :
    exec (.strayFrame .fp f ended) s = .next ((s.beginReception.judged .fp).scoreGood .fp) :=
  State.occurs_of _ awake (by rw [fits, receives]; exact stray)

/-- Settles O21: a stray frame is scored, and then the window it outlasted is over. -/
theorem strayFrameIsScoredOnly : Obligations.StrayFrameIsScoredOnly := by
  intro f s awake fits
  refine ⟨fun receives stray ended => ⟨_, exec_strayFrame_festoon awake fits receives stray ended, State.goodScored _ _⟩,
    fun l receives stray => ?_⟩
  have scored := State.goodScored (masterLine l) s
  have run := exec_strayFrame_master awake fits receives stray
  obtain ⟨opens, missed, closed⟩ := (State.Judged.of_frame scored.frame).windowOver
  exact ⟨_, scored, (run false).trans (congrArg _ opens), fun k e turn entry => ⟨_, run true, missed k e turn entry⟩,
    fun turn => (run true).trans (congrArg _ (closed turn))⟩

/-- R77: a frame error at a master port, by what it does to the score. -/
theorem exec_frameError_master {l : MasterLine} {cs : List LineChar} {s : State} (awake : s.awake) (error : isFrameError cs = true)
    (receives : s.masterReceives l = true) (ended : Bool) :
    exec (.frameError (masterLine l) cs ended) s = .next (s.work.masterError l ended).close := by
  cases l <;> exact State.occurs_of _ awake (by rw [error]; exact receives)

theorem State.overflows_judged (l : Line) (s : State) : (s.judged l).overflows l = true ↔ 248 ≤ (s.link l).score + 8 := by
  rw [State.overflows, State.judged_eq, State.setLink_link]
  exact decide_eq_true_iff

theorem Work.masterError_of_below {l : MasterLine} {s : State} (below : (s.port l).link.score + 8 < 248) (ended : Bool) :
    s.work.masterError l ended = ((s.judged (masterLine l)).scoreError (masterLine l)).work.windowOver l ended := by
  refine if_neg fun overflows => ?_
  have reached := (State.overflows_judged (masterLine l) s).mp overflows
  rw [State.link_masterLine] at reached
  omega

theorem exec_frameError_festoon {cs : List LineChar} {s : State} (awake : s.awake) (error : isFrameError cs = true)
    (receives : s.festoonReceives = true) (ended : Bool) : exec (.frameError .fp cs ended) s = .next s.festoonError :=
  State.occurs_of _ awake (by rw [error]; exact receives)

/-- Settles O22: a frame error below overflow is scored, and then the window it outlasted is over. -/
theorem frameErrorRaisesScore : Obligations.FrameErrorRaisesScore := by
  intro cs s awake error
  refine ⟨fun receives below ended => ?_, fun l receives below => ?_⟩
  · have scored : s.festoonError = (s.beginReception.judged .fp).scoreError .fp :=
      if_neg fun overflows => absurd ((State.overflows_judged .fp s.beginReception).mp overflows) (Nat.not_le_of_lt below)
    exact ⟨_, (exec_frameError_festoon awake error receives ended).trans (congrArg _ scored), State.errorScored _ _⟩
  · have scored := State.errorScored (masterLine l) s
    have run := fun ended => (exec_frameError_master awake error receives ended).trans
      (congrArg (fun w : Work => Host.Outcome.next w.close) (Work.masterError_of_below below ended))
    obtain ⟨opens, missed, closed⟩ := (State.Judged.of_frame scored.frame).windowOver
    exact ⟨_, scored, (run false).trans (congrArg _ opens), fun k e turn entry => ⟨_, run true, missed k e turn entry⟩,
      fun turn => (run true).trans (congrArg _ (closed turn))⟩

/-! ### Rests and the beginning of a reception (R69, R127, R162) -/

theorem exec_lineRest_master {l : MasterLine} {s : State} (awake : s.awake)
    (judges : (s.port l).state = .cycling ∨ (l = .sp ∧ s.sp.state = .search)) (phase : (s.port l).link.phase = .ignoring) :
    exec (.lineRest (masterLine l)) s =
      .next (s.setPort l { s.port l with link := { (s.port l).link with phase := .rested } }) := by
  have changes : s.restChanges (masterLine l) = true := by
    cases l with
    | sp =>
      have : s.sp.link.phase = .ignoring := phase
      obtain h | ⟨-, h⟩ := judges
      · have : s.sp.state = .cycling := h
        simp [State.restChanges, State.scores, masterLine, *]
      · simp [State.restChanges, State.scores, masterLine, *]
    | cp =>
      have : s.cp.link.phase = .ignoring := phase
      obtain h | ⟨h, -⟩ := judges
      · have : s.cp.state = .cycling := h
        simp [State.restChanges, State.scores, masterLine, *]
      · cases h
  refine (State.occurs_of _ awake changes).trans (congrArg _ ?_)
  rw [State.setPhase_eq, State.setLink_master, State.link_masterLine]

theorem exec_lineRest_festoon {s : State} (awake : s.awake) (listens : s.fp.state = .listening)
    (phase : s.fp.link.phase = .ignoring ∨ ((∃ f r, s.fp.link.phase = .sending f r) ∧ s.fp.restartPending = false)) :
    exec (.lineRest .fp) s = .next { s with fp := { s.fp with link := { s.fp.link with phase := .rested } } } := by
  have changes : s.restChanges .fp = true := by
    obtain h | ⟨⟨f, r, h⟩, hr⟩ := phase <;> simp [State.restChanges, State.scores, *]
  exact State.occurs_of _ awake changes

/-- Settles O36: the warm restart that a reception lets take effect is the one of `State.warmRestart_entry`. -/
theorem restsAndReceptionStarts : Obligations.RestsAndReceptionStarts := by
  refine ⟨fun s awake => ⟨fun l => exec_lineRest_master awake, exec_lineRest_festoon awake⟩, ?_⟩
  intro s awake listens phase d
  have run : exec .festoonReceptionStart s = .next s.beginReception :=
    State.occurs_of _ awake (by simp [State.scores, listens, phase])
  refine ⟨fun pending => run.trans (congrArg _ (State.beginReception_of_rested phase pending)), fun pending => ?_⟩
  obtain ⟨config, stays, restarts⟩ := State.warmRestart_entry d
  exact ⟨_, _, run.trans (congrArg _ (State.beginReception_of_restart phase pending)), config, stays, restarts⟩

/-! ### The timers of detachment and of stale slots (R80, R81, R124) -/

theorem State.feedHolds_iff (s : State) (d : Feed) : s.feedHolds d = true ↔ (s.tables.feeds.get (feedIx d)).enabled = true ∧
    ((s.feedRt.get (feedIx d)).state = .low ∨ (s.feedRt.get (feedIx d)).state = .recovering) := by
  simp [State.feedHolds, State.feed]

theorem exec_detachTimerExpiry_master {l : MasterLine} {s : State} (awake : s.awake) (detached : (s.port l).state = .detached)
    (timer : (s.port l).detachTimer ≠ none) :
    exec (.detachTimerExpiry (masterLine l)) s = .next (s.work.leaveDetached l).close := by
  have runs := Option.isSome_iff_ne_none.mpr timer
  cases l <;> exact State.occurs_of _ awake (Bool.and_eq_true_iff.mpr ⟨beq_iff_eq.mpr detached, runs⟩)

/-- R80: a port whose supply is low leaves DETACHED for HELD. -/
theorem exec_detachTimerExpiry_held {l : MasterLine} {s : State} (awake : s.awake) (detached : (s.port l).state = .detached)
    (timer : (s.port l).detachTimer ≠ none) (holds : s.feedHolds (feedOf l) = true) :
    ∃ t, exec (.detachTimerExpiry (masterLine l)) s = .next t ∧ PortHeld l s t := by
  have leaves : s.work.leaveDetached l = s.work.hold l := if_pos holds
  exact ⟨_, exec_detachTimerExpiry_master awake detached timer, leaves ▸ State.hold_held l s⟩

theorem exec_detachTimerExpiry_search {s : State} (awake : s.awake) (detached : s.sp.state = .detached)
    (timer : s.sp.detachTimer ≠ none) (high : ¬s.feedHolds .spreader = true) :
    exec (.detachTimerExpiry .sp) s = .next s.searching := by
  have leaves : s.work.leaveDetached .sp = s.searching.work := if_neg high
  exact (exec_detachTimerExpiry_master (l := .sp) awake detached timer).trans (congrArg _ (leaves ▸ State.close_work _))

theorem exec_detachTimerExpiry_resume {s : State} (awake : s.awake) (detached : s.cp.state = .detached)
    (timer : s.cp.detachTimer ≠ none) (high : ¬s.feedHolds .cab = true) :
    exec (.detachTimerExpiry .cp) s = .next s.resumeCab := by
  have leaves : s.work.leaveDetached .cp = s.resumeCab.work := if_neg high
  exact (exec_detachTimerExpiry_master (l := .cp) awake detached timer).trans (congrArg _ (leaves ▸ State.close_work _))

theorem Work.staleExpiry_staled (s : State) (k : SlotIx) : (s.work.staleExpiry k).Staled s :=
  Work.Staled.stale (Work.Staled.on (Work.Staled.work rfl) (State.raise_image _ _)) _

theorem Work.staleExpiry_image (s : State) (k : SlotIx) (i : SigIx) : (s.work.staleExpiry k).st.image.get i =
    if (s.image.get i).quality.goesStale &&
        (writtenSignals (s.tables.festoonRun (s.tables.festoonSlots.get k))).contains i then
      { s.image.get i with quality := .stale }
    else s.image.get i := by
  rw [Work.staleExpiry, Work.stale_image, Work.on_st, State.raise_image]
  rfl

/-- R11: a quality that does not go STALE is STALE already, or ABSENT. -/
theorem Quality.not_goesStale_iff (q : Quality) : q.goesStale = false ↔ q = .stale ∨ q = .absent := by
  cases q <;> simp [Quality.goesStale]

theorem Work.staleExpiry_st (s : State) (k : SlotIx) : (s.work.staleExpiry k).st = { s with
    fp := { s.fp with slots := s.fp.slots.set k { s.fp.slots.get k with status := .lost, staleTimer := none } }
    image := (s.work.staleExpiry k).st.image, events := (s.raise (.slotLost .fp k)).events
    ovf := (s.raise (.slotLost .fp k)).ovf } := by
  obtain ⟨events, ovf⟩ := State.raise_congr (s := s.onFp fun p => { p with slots := p.slots.modify k lostFestoon }) (t := s)
    (.slotLost .fp k) rfl rfl rfl
  rw [Work.staleExpiry, Work.stale, Work.change_frame, Work.on_st, State.work_st]
  conv_lhs => rw [State.raise_frame, events, ovf]
  rfl

/-- Settles O35: each port's way out of DETACHED is the shared change it makes, and a stale slot is one loss. -/
theorem detachAndStaleTimersExpire : Obligations.DetachAndStaleTimersExpire := by
  constructor
  · intro s awake low
    refine ⟨fun detached timer => ?_, fun detached timer => ?_, fun detached timer => ?_⟩
    · exact ⟨fun high => exec_detachTimerExpiry_search awake detached timer fun h => high ((s.feedHolds_iff .spreader).mp h),
        fun held => exec_detachTimerExpiry_held (l := .sp) awake detached timer ((s.feedHolds_iff .spreader).mpr held)⟩
    · exact ⟨fun high => ⟨_, exec_detachTimerExpiry_resume awake detached timer fun h => high ((s.feedHolds_iff .cab).mp h),
          s.resumeCab_resumed⟩,
        fun held => exec_detachTimerExpiry_held (l := .cp) awake detached timer ((s.feedHolds_iff .cab).mpr held)⟩
    · exact State.occurs_of _ awake
        (Bool.and_eq_true_iff.mpr ⟨beq_iff_eq.mpr detached, Option.isSome_iff_ne_none.mpr timer⟩)
  · intro k s awake timer signals
    refine ⟨_, State.occurs_of _ awake (Option.isSome_iff_ne_none.mpr timer), fun i named there => ?_, fun i spared => ?_,
      Work.ends_of_eq _ ?_ fun i => ?_⟩
    · rw [Work.close_image, Work.staleExpiry_image, List.contains_iff_mem.mpr named, Bool.and_true]
      cases fresh : (s.image.get i).quality.goesStale with
      | true => rfl
      | false =>
        have stale := ((Quality.not_goesStale_iff _).mp fresh).resolve_right there
        rw [if_neg Bool.false_ne_true, ← stale]
    · rw [Work.close_image, Work.staleExpiry_image]
      refine if_neg fun marked => ?_
      obtain ⟨fresh, named⟩ := Bool.and_eq_true_iff.mp marked
      obtain unnamed | absent := spared
      · exact unnamed (List.contains_iff_mem.mp named)
      · rw [absent] at fresh
        exact Bool.noConfusion fresh
    · rw [Work.close_image]
      exact (Work.staleExpiry_st s k).symm
    · rw [Work.close_image]
      exact (Work.staleExpiry_staled s k).touched_iff i

end Sys2Proof.Machine
end

section
namespace Sys2Proof.Machine

/-! ### The slots of a master port at its detachment (R79) -/

/-- R79: a slot that its port's detachment makes LOST: an enabled IN slot that is not LOST yet. -/
def State.falls (s : State) (ke : SlotIx × MasterIx) : Bool :=
  (s.slotRec ke.2).enabled && (s.slotRec ke.2).direction == .inbound && (s.masterRt.get ke.2).status != .lost

/-- R79: a slot that falls enters LOST, with SLOT_LOST and its signals STALE. -/
def Work.loseSlot (l : MasterLine) (w : Work) (ke : SlotIx × MasterIx) : Work :=
  (w.on fun s => (s.onSlot ke.2 (lostSlot (s.slotRec ke.2).missLimit)).raise (.slotLost (masterLine l) ke.1)).stale
    (writtenSignals (w.st.tables.slotRun (w.st.slotRec ke.2)))

/-- R11: the record of a signal that goes STALE with some slots where one of them names it. -/
def SigRec.staleIf (named : Bool) (r : SigRec) : SigRec := if r.quality.goesStale && named then { r with quality := .stale } else r

@[simp] theorem SigRec.staleIf_false (r : SigRec) : r.staleIf false = r := by simp [SigRec.staleIf]

/-- A record that went STALE does not go STALE again. -/
theorem SigRec.staleIf_staleIf (a b : Bool) (r : SigRec) : (r.staleIf a).staleIf b = r.staleIf (a || b) := by
  cases a with
  | false => rw [SigRec.staleIf_false, Bool.false_or]
  | true =>
    rw [Bool.true_or]
    cases fresh : r.quality.goesStale with
    | false =>
      have kept : ∀ named, r.staleIf named = r := by simp [SigRec.staleIf, fresh]
      rw [kept, kept]
    | true =>
      have marked : r.staleIf true = { r with quality := .stale } := by simp [SigRec.staleIf, fresh]
      rw [marked]
      rfl

theorem Work.detachSlot_eq (l : MasterLine) (w : Work) (ke : SlotIx × MasterIx) :
    w.detachSlot l ke = if w.st.falls ke then w.loseSlot l ke else w := rfl

section
variable (l : MasterLine) (w : Work) (ke : SlotIx × MasterIx)

@[simp] theorem Work.loseSlot_tables : (w.loseSlot l ke).st.tables = w.st.tables := State.raise_tables _ _

@[simp] theorem Work.loseSlot_slotRec (e : MasterIx) : (w.loseSlot l ke).st.slotRec e = w.st.slotRec e :=
  congrArg (fun t : Tables => t.masterSlots.get e) (w.loseSlot_tables l ke)

theorem Work.loseSlot_masterRt (e : MasterIx) : (w.loseSlot l ke).st.masterRt.get e =
    if e = ke.2 then { w.st.masterRt.get e with status := .lost, misses := (w.st.slotRec e).missLimit }
    else w.st.masterRt.get e := by
  have raised : (w.loseSlot l ke).st.masterRt = (w.st.onSlot ke.2 (lostSlot (w.st.slotRec ke.2).missLimit)).masterRt :=
    State.raise_masterRt _ _
  rw [raised, State.onSlot_masterRt]
  split
  · rename_i same
    rw [same]
    rfl
  · rfl

theorem Work.loseSlot_image (i : SigIx) : (w.loseSlot l ke).st.image.get i =
    (w.st.image.get i).staleIf ((writtenSignals (w.st.tables.slotRun (w.st.slotRec ke.2))).contains i) := by
  rw [Work.loseSlot, Work.stale_image, Work.on_st, State.raise_image]
  rfl

theorem Work.loseSlot_raised : (w.loseSlot l ke).st.events = (w.st.raise (.slotLost (masterLine l) ke.1)).events ∧
    (w.loseSlot l ke).st.ovf = (w.st.raise (.slotLost (masterLine l) ke.1)).ovf :=
  State.raise_congr (s := w.st.onSlot ke.2 _) _ rfl rfl rfl

theorem Work.loseSlot_timestamp : (w.loseSlot l ke).st.timestamp = w.st.timestamp := State.raise_timestamp _ _

/-- A slot that falls leaves the other slots falling or not as they were. -/
theorem Work.loseSlot_falls {ke' : SlotIx × MasterIx} (other : ke'.2 ≠ ke.2) :
    (w.loseSlot l ke).st.falls ke' = w.st.falls ke' := by
  simp only [State.falls, Work.loseSlot_slotRec, Work.loseSlot_masterRt, if_neg other]

end

/-- A set's detachment is the loss of the slots that fell when it began. -/
theorem Work.detachSlots_eq (l : MasterLine) {kes : List (SlotIx × MasterIx)} (distinct : kes.Pairwise fun a b => b.2 ≠ a.2) (w : Work) :
    kes.foldl (Work.detachSlot l) w = (kes.filter w.st.falls).foldl (Work.loseSlot l) w := by
  induction kes generalizing w with
  | nil => rfl
  | cons ke kes ih =>
    obtain ⟨others, distinct⟩ := List.pairwise_cons.mp distinct
    rw [List.foldl_cons, Work.detachSlot_eq, List.filter_cons]
    split
    · rw [List.foldl_cons, ih distinct]
      exact congrArg (List.foldl _ _) (List.filter_congr fun ke' member => w.loseSlot_falls l ke (others ke' member))
    · exact ih distinct w

section
variable (l : MasterLine) (fallen : List (SlotIx × MasterIx)) (w : Work)

theorem Work.loseSlots_tables : (fallen.foldl (Work.loseSlot l) w).st.tables = w.st.tables := by
  induction fallen generalizing w with
  | nil => rfl
  | cons ke fallen ih => rw [List.foldl_cons, ih, Work.loseSlot_tables]

theorem Work.loseSlots_masterRt (e : MasterIx) : (fallen.foldl (Work.loseSlot l) w).st.masterRt.get e =
    if fallen.any (fun ke => ke.2 == e) then { w.st.masterRt.get e with status := .lost, misses := (w.st.slotRec e).missLimit }
    else w.st.masterRt.get e := by
  induction fallen generalizing w with
  | nil => rfl
  | cons ke fallen ih =>
    rw [List.foldl_cons, ih, Work.loseSlot_masterRt, Work.loseSlot_slotRec, List.any_cons]
    by_cases here : e = ke.2
    · simp [here]
    · simp [here, Ne.symm here]

theorem Work.loseSlots_image (i : SigIx) : (fallen.foldl (Work.loseSlot l) w).st.image.get i =
    (w.st.image.get i).staleIf
      (fallen.any fun ke => (writtenSignals (w.st.tables.slotRun (w.st.slotRec ke.2))).contains i) := by
  induction fallen generalizing w with
  | nil => exact (SigRec.staleIf_false _).symm
  | cons ke fallen ih =>
    rw [List.foldl_cons, ih, Work.loseSlot_image, SigRec.staleIf_staleIf, List.any_cons]
    simp only [Work.loseSlot_tables, Work.loseSlot_slotRec]

theorem Work.loseSlots_raised :
    (fallen.foldl (Work.loseSlot l) w).st.events = (w.st.raiseAll (fallen.map fun ke => .slotLost (masterLine l) ke.1)).events ∧
    (fallen.foldl (Work.loseSlot l) w).st.ovf = (w.st.raiseAll (fallen.map fun ke => .slotLost (masterLine l) ke.1)).ovf := by
  induction fallen generalizing w with
  | nil => exact ⟨rfl, rfl⟩
  | cons ke fallen ih =>
    obtain ⟨events, ovf⟩ := w.loseSlot_raised l ke
    obtain ⟨events', ovf'⟩ := State.raiseAll_congr (s := (w.loseSlot l ke).st) (t := w.st.raise (.slotLost (masterLine l) ke.1))
      (fallen.map fun ke => .slotLost (masterLine l) ke.1) events ovf ((w.loseSlot_timestamp l ke).trans (State.raise_timestamp _ _).symm)
    exact ⟨(ih _).1.trans events', (ih _).2.trans ovf'⟩

theorem Work.Staled.loseSlot {s : State} {w : Work} (h : w.Staled s) (ke : SlotIx × MasterIx) : (w.loseSlot l ke).Staled s := by
  refine Work.Staled.stale (Work.Staled.on h ?_) _
  rw [State.raise_image, State.onSlot_image]

theorem Work.Staled.loseSlots {s : State} {w : Work} (h : w.Staled s) : (fallen.foldl (Work.loseSlot l) w).Staled s := by
  induction fallen generalizing w with
  | nil => exact h
  | cons ke fallen ih => exact ih (h.loseSlot l ke)

end

/-! ### The attachment at the Spreader Port's detachment (R79, R114) -/

theorem Work.detachAttachment_of_none {w : Work} (h : w.st.attached = none) : w.detachAttachment = w := by
  simp only [Work.detachAttachment, h]

theorem Work.detachAttachment_of_some {w : Work} {p : ProfileIx} (h : w.st.attached = some p) :
    w.detachAttachment.st = { w.st with
      attached := none, masterRt := w.st.masterRt.mapIdx fun e rt => if inProfile p e then .idle else rt
      image := (w.clearArea .spreader).st.image, events := (w.st.raise (.spreaderDetached p 2)).events
      ovf := (w.st.raise (.spreaderDetached p 2)).ovf } ∧
    w.detachAttachment.touched = (w.clearArea .spreader).touched := by
  have dropped := w.st.dropAttachment_eq h
  obtain ⟨events, ovf⟩ := State.raise_congr (s := w.st.dropAttachment) (t := w.st) (.spreaderDetached p 2)
    (by rw [dropped]) (by rw [dropped]) (by rw [dropped])
  have raised : w.st.dropAttachment.raise (.spreaderDetached p 2) = { w.st with
      attached := none, masterRt := w.st.masterRt.mapIdx fun e rt => if inProfile p e then .idle else rt
      events := (w.st.raise (.spreaderDetached p 2)).events, ovf := (w.st.raise (.spreaderDetached p 2)).ovf } := by
    rw [State.raise_frame, events, ovf, dropped]
  have work : w.detachAttachment = (w.on fun _ => w.st.dropAttachment.raise (.spreaderDetached p 2)).clearArea .spreader := by
    simp only [Work.detachAttachment, h]
    rfl
  rw [work, raised]
  exact ⟨rfl, rfl⟩

end Sys2Proof.Machine
end

section
namespace Sys2Proof.Machine

/-! ### The detachment of a master port (R77 to R79, R114) -/

/-- R79: a master port in DETACHED, its detach timer started, which needs a new rest of its line (log 27). -/
def MasterPort.detached (p : MasterPort) : MasterPort :=
  { p with
    state := .detached, turn := .none, cycle := none, cycleTimer := none, overdue := false, queue := [], detachTimer := some 250
    link := { p.link with score := 0, health := .active, phase := .ignoring } }

/-- R79: a master port has entered DETACHED, and its slots are yet to fall. -/
def State.detaching (l : MasterLine) (s : State) : State :=
  (s.setPort l (s.port l).detached).raise (.lineDetached (masterLine l))

/-- R79: the slots that fall as a master port enters DETACHED. -/
def State.fallen (l : MasterLine) (s : State) : List (SlotIx × MasterIx) := (s.activeSet l).filter s.falls

/-- R79: a master port has entered DETACHED, and its slots have fallen. -/
def State.slotsLost (l : MasterLine) (s : State) : Work := (s.fallen l).foldl (Work.loseSlot l) (s.detaching l).work

theorem State.eq_cabEntry {s : State} {k : SlotIx} {e : MasterIx} (h : s.activeEntry .cp k = some e) : cabEntry k = e := by
  cases state : s.cp.state <;> simp_all [State.activeEntry]

/-- R83: two slots of a set have two entries. -/
theorem State.activeSet_distinct (s : State) (l : MasterLine) : (s.activeSet l).Pairwise fun a b => b.2 ≠ a.2 := by
  refine List.Pairwise.filterMap _ (fun j k hjk a ha b hb => ?_) (List.pairwise_lt_finRange 16)
  obtain ⟨e, he, rfl⟩ := Option.map_eq_some_iff.mp ha
  obtain ⟨e', he', rfl⟩ := Option.map_eq_some_iff.mp hb
  rintro rfl
  cases l with
  | sp =>
    obtain ⟨p, hp, rfl⟩ := Option.map_eq_some_iff.mp he
    obtain ⟨q, hq, same⟩ := Option.map_eq_some_iff.mp he'
    obtain rfl : p = q := Option.some.inj (hp.symm.trans hq)
    have := congrArg Fin.val same
    simp only [profileEntry] at this
    omega
  | cp =>
    have := congrArg Fin.val ((State.eq_cabEntry he).trans (State.eq_cabEntry he').symm)
    simp only [cabEntry] at this
    omega

theorem State.detaching_activeSet {l : MasterLine} {s : State} (receives : s.masterReceives l = true) :
    (s.detaching l).activeSet l = s.activeSet l := by
  have sets : ∀ k, (s.detaching l).activeEntry l k = s.activeEntry l k := fun k => by
    cases l with
    | sp => simp [State.detaching, State.activeEntry]
    | cp =>
      have cycling : s.cp.state = .cycling := by
        cases h : s.cp.state <;> simp_all [State.masterReceives, State.scores, masterLine]
      simp [State.detaching, State.activeEntry, cycling, State.setPort, MasterPort.detached]
  simp only [State.activeSet, sets]

theorem State.detaching_falls (l : MasterLine) (s : State) : (s.detaching l).falls = s.falls := by
  funext ke
  simp [State.falls, State.detaching, State.slotRec]

theorem State.slotsLost_eq {l : MasterLine} {s : State} (receives : s.masterReceives l = true) :
    ((s.detaching l).activeSet l).foldl (Work.detachSlot l) (s.detaching l).work = s.slotsLost l := by
  rw [State.detaching_activeSet receives, Work.detachSlots_eq l (s.activeSet_distinct l), State.work_st, State.detaching_falls]
  rfl

/-- R77, R79: a frame error that overflows the score, whether or not a window ended during it (log 29). -/
theorem Work.masterError_of_overflow {l : MasterLine} {s : State} (receives : s.masterReceives l = true)
    (overflow : 248 ≤ (s.port l).link.score + 8) (ended : Bool) : s.work.masterError l ended =
      match l with
      | .cp => s.slotsLost .cp
      | .sp => ((s.slotsLost .sp).on State.stopSearch).detachAttachment := by
  have overflows : (s.judged (masterLine l)).overflows (masterLine l) = true :=
    (State.overflows_judged _ _).mpr (by rw [State.link_masterLine]; exact overflow)
  have error : s.work.masterError l ended = (s.work.on (State.judged (masterLine l))).detachMaster l := if_pos overflows
  rw [error]
  cases l <;> rw [← State.slotsLost_eq receives] <;> rfl

/-- R79, R114: what an event has made of the part by the detachment of a master port that dropped an attachment or none. -/
structure Work.Detaches (l : MasterLine) (dropped : Option ProfileIx) (s : State) (w : Work) : Prop where
  slots : ∀ e, w.st.masterRt.get e =
    if dropped.any (fun p => e.val / 16 == p.val) then ⟨.disabled, 0, false, 0⟩
    else if (s.fallen l).any (fun ke => ke.2 == e) then
      { s.masterRt.get e with status := .lost, misses := (s.slotRec e).missLimit }
    else s.masterRt.get e
  image : ∀ i, w.st.image.get i =
    if dropped.isSome && s.tables.ownedBy .spreader i then (s.image.get i).emptied
    else (s.image.get i).staleIf
      ((s.fallen l).any fun ke => (writtenSignals (s.tables.slotRun (s.slotRec ke.2))).contains i)
  touched : ∀ i, w.touched i = true ↔ w.st.image.get i ≠ s.image.get i
  frame :
    let raised := s.raiseAll (.lineDetached (masterLine l) :: (s.fallen l).map (fun ke => .slotLost (masterLine l) ke.1) ++
      dropped.toList.map (fun p => .spreaderDetached p 2))
    w.st = { s.setPort l (s.port l).detached with
      attached := if l = .sp then none else s.attached, searchTimer := if l = .sp then none else s.searchTimer
      hail := if l = .sp then .off else s.hail, masterRt := w.st.masterRt, image := w.st.image, events := raised.events
      ovf := raised.ovf }

theorem State.slotsLost_staled (l : MasterLine) (s : State) : (s.slotsLost l).Staled s :=
  Work.Staled.loseSlots l _ (Work.Staled.work (by simp [State.detaching]))

theorem State.slotsLost_masterRt (l : MasterLine) (s : State) (e : MasterIx) : (s.slotsLost l).st.masterRt.get e =
    if (s.fallen l).any (fun ke => ke.2 == e) then { s.masterRt.get e with status := .lost, misses := (s.slotRec e).missLimit }
    else s.masterRt.get e := by
  simp only [State.slotsLost, Work.loseSlots_masterRt, State.work_st, State.detaching, State.raise_masterRt, State.raise_slotRec,
    State.setPort_masterRt]
  simp only [State.slotRec, State.setPort_tables]

theorem State.slotsLost_image (l : MasterLine) (s : State) (i : SigIx) : (s.slotsLost l).st.image.get i =
    (s.image.get i).staleIf
      ((s.fallen l).any fun ke => (writtenSignals (s.tables.slotRun (s.slotRec ke.2))).contains i) := by
  simp only [State.slotsLost, Work.loseSlots_image, State.work_st, State.detaching, State.raise_image, State.raise_tables,
    State.raise_slotRec, State.setPort_image, State.setPort_tables]
  simp only [State.slotRec, State.setPort_tables]

/-- R79: the events of the port and of its slots. -/
theorem State.slotsLost_raised (l : MasterLine) (s : State) :
    let raised := s.raiseAll (.lineDetached (masterLine l) :: (s.fallen l).map fun ke => .slotLost (masterLine l) ke.1)
    (s.slotsLost l).st.events = raised.events ∧ (s.slotsLost l).st.ovf = raised.ovf := by
  obtain ⟨events, ovf⟩ := State.raise_congr (s := s.setPort l (s.port l).detached) (t := s) (.lineDetached (masterLine l))
    (by simp) (by simp) (by simp)
  obtain ⟨events', ovf'⟩ := State.raiseAll_congr (s := s.detaching l) (t := s.raise (.lineDetached (masterLine l)))
    ((s.fallen l).map fun ke => .slotLost (masterLine l) ke.1) events ovf (by simp [State.detaching])
  obtain ⟨events'', ovf''⟩ := Work.loseSlots_raised l (s.fallen l) (s.detaching l).work
  exact ⟨events''.trans events', ovf''.trans ovf'⟩

theorem State.slotsLost_frame {l : MasterLine} {s : State} (receives : s.masterReceives l = true) :
    (s.slotsLost l).st = { s.setPort l (s.port l).detached with
      masterRt := (s.slotsLost l).st.masterRt, image := (s.slotsLost l).st.image, events := (s.slotsLost l).st.events
      ovf := (s.slotsLost l).st.ovf } := by
  have frame := Work.detachSlots_frame l ((s.detaching l).activeSet l) (s.detaching l).work
  rw [State.slotsLost_eq receives] at frame
  rw [frame]
  simp only [State.work_st, State.detaching]
  conv_lhs => rw [State.raise_frame]

/-- R79: the Cab Port, and the Spreader Port with nothing attached, lose their slots alone. -/
theorem State.slotsLost_detaches {s : State} (receives : s.masterReceives .cp = true) :
    (s.slotsLost .cp).Detaches .cp none s where
  slots := s.slotsLost_masterRt .cp
  image := s.slotsLost_image .cp
  touched := (s.slotsLost_staled .cp).touched_iff
  frame := by
    obtain ⟨events, ovf⟩ := s.slotsLost_raised .cp
    simp only [Option.toList_none, List.map_nil, List.append_nil, ← events, ← ovf]
    exact State.slotsLost_frame receives

/-- R79, R114: the Spreader Port also ends its search, and drops its attachment with cause 2. -/
theorem State.attachment_detaches {s : State} (receives : s.masterReceives .sp = true) :
    ((s.slotsLost .sp).on State.stopSearch).detachAttachment.Detaches .sp s.attached s := by
  have frame := State.slotsLost_frame receives
  have attached : ((s.slotsLost .sp).on State.stopSearch).st.attached = s.attached := by
    rw [Work.on_st, frame]; rfl
  have staled : ((s.slotsLost .sp).on State.stopSearch).Staled s := (s.slotsLost_staled .sp).on rfl
  have search : ((s.slotsLost .sp).on State.stopSearch).st = { s.setPort .sp (s.port .sp).detached with
      searchTimer := none, hail := .off, masterRt := (s.slotsLost .sp).st.masterRt, image := (s.slotsLost .sp).st.image
      events := (s.slotsLost .sp).st.events, ovf := (s.slotsLost .sp).st.ovf } := congrArg State.stopSearch frame
  obtain ⟨events, ovf⟩ := s.slotsLost_raised .sp
  cases h : s.attached with
  | none =>
    rw [Work.detachAttachment_of_none (attached.trans h)]
    refine ⟨s.slotsLost_masterRt .sp, s.slotsLost_image .sp, staled.touched_iff, ?_⟩
    simp only [Option.toList_none, List.map_nil, List.append_nil, ← events, ← ovf]
    rw [search]
    cases s
    cases h
    rfl
  | some p =>
    obtain ⟨drop, touched⟩ := Work.detachAttachment_of_some (attached.trans h)
    obtain ⟨events', ovf'⟩ := State.raise_congr (s := ((s.slotsLost .sp).on State.stopSearch).st)
      (t := s.raiseAll (.lineDetached (masterLine .sp) ::
        (s.fallen .sp).map fun ke : SlotIx × MasterIx => .slotLost (masterLine .sp) ke.1)) (.spreaderDetached p 2) events ovf
      (by rw [search, State.raiseAll_frame]; rfl)
    refine ⟨fun e => ?_, fun i => ?_, fun i => ?_, ?_⟩
    · rw [drop, Tab.get_mapIdx]
      exact ite_congr rfl (fun _ => rfl) fun _ => s.slotsLost_masterRt .sp e
    · rw [drop]
      refine (Work.clearArea_image _ _ _).trans ?_
      have tables : ((s.slotsLost .sp).on State.stopSearch).st.tables = s.tables := by rw [search]; rfl
      have image : ((s.slotsLost .sp).on State.stopSearch).st.image.get i = _ := s.slotsLost_image .sp i
      rw [tables, image, Option.isSome_some, Bool.true_and]
      refine ite_congr rfl (fun _ => ?_) fun _ => rfl
      unfold SigRec.staleIf
      split <;> rfl
    · rw [touched, drop]
      exact staled.clearArea_touched_iff .spreader i
    · simp only [State.raiseAll_append, Option.toList_some, List.map_cons, List.map_nil, masterLine]
      rw [drop, events', ovf']
      conv_lhs => rw [search]
      rfl

/-- Settles O23: the Festoon Port's detachment is one change; a master port's is what `Work.Detaches` says of its two lines. -/
theorem overflowDetachesThePort : Obligations.OverflowDetachesThePort := by
  intro cs ended s awake error
  constructor
  · intro receives overflow b
    have detaches : s.festoonError = (s.beginReception.judged .fp).detachFestoon :=
      if_pos ((State.overflows_judged .fp s.beginReception).mpr overflow)
    exact (exec_frameError_festoon awake error receives ended).trans (congrArg _ detaches)
  · intro l receives overflow falls fallen dropped raised
    have run := exec_frameError_master awake error receives ended
    have detaches : (s.work.masterError l ended).Detaches l dropped s := by
      rw [Work.masterError_of_overflow receives overflow]
      cases l with
      | cp => exact State.slotsLost_detaches receives
      | sp => exact State.attachment_detaches receives
    have port : (s.work.masterError l ended).close.port l = (s.port l).detached := by
      rw [Work.close_port, detaches.frame]
      cases l <;> rfl
    refine ⟨_, run, port, fun e => ?_, fun i => ?_, Work.ends_of_eq _ ?_ fun i => ?_⟩
    · rw [Work.close_masterRt]
      exact detaches.slots e
    · rw [Work.close_image]
      exact detaches.image i
    · rw [port, Work.close_masterRt, Work.close_image]
      exact detaches.frame.symm
    · rw [Work.close_image]
      exact detaches.touched i

end Sys2Proof.Machine
end

/-! # Proofs about the bytes of table records (R76, R155, R156)

A record is its fields' bytes one behind the other. A field is read at its place by passing over the bytes before it and reading what the
field's own bytes carry, so each record's parse is the run of its fields' lemmas. -/

section
namespace Sys2Proof.Machine

/-! ### Passing over the bytes of earlier fields -/

section
variable {xs : List Byte} (bs : List Byte) {k : Nat} (past : xs.length ≤ k)
include past

theorem byteAt_past : byteAt (xs ++ bs) k = byteAt bs (k - xs.length) := by
  simp [byteAt, List.getD, List.getElem?_append_right past]

theorem wordAt_past : wordAt (xs ++ bs) k = wordAt bs (k - xs.length) := by
  rw [wordAt, wordAt, byteAt_past bs past, byteAt_past bs (Nat.le_succ_of_le past), Nat.succ_sub past]

theorem intAt_past : intAt (xs ++ bs) k = intAt bs (k - xs.length) := by
  rw [intAt, intAt, wordAt_past bs past]

theorem addrOf_past : addrOf (xs ++ bs) k = addrOf bs (k - xs.length) := by
  have selector : k + 2 - xs.length = k - xs.length + 2 := by omega
  have scale : k + 4 - xs.length = k - xs.length + 4 := by omega
  rw [addrOf, addrOf, wordAt_past bs past, wordAt_past bs (by omega), byteAt_past bs (by omega), selector, scale]

theorem optAddrOf_past : optAddrOf (xs ++ bs) k = optAddrOf bs (k - xs.length) := by
  rw [optAddrOf, optAddrOf, wordAt_past bs past, addrOf_past bs past]

end

theorem length_flagBytes (b : Bool) : (flagBytes b).length = 1 := by simp [flagBytes]

theorem length_oneByte (n : Nat) : (oneByte n).length = 1 := by simp [oneByte]

theorem length_twoBytes (n : Nat) : (twoBytes n).length = 2 := by simp [twoBytes]

theorem length_leSigned (v : Int) : (leSigned v).length = 2 := by simp [leSigned]

theorem length_optWordBytes {n : Nat} (x : Option (Fin n)) : (optWordBytes x).length = 2 := by cases x <;> rfl

theorem length_optByteBytes {n : Nat} (x : Option (Fin n)) : (optByteBytes x).length = 1 := by cases x <;> rfl

theorem length_addrBytes (a : SigAddr) : (addrBytes a).length = 5 := by
  simp only [addrBytes, List.length_append, length_twoBytes, length_optWordBytes, length_oneByte]

theorem length_optAddrBytes (a : Option SigAddr) : (optAddrBytes a).length = 5 := by
  cases a with
  | none => rfl
  | some a => exact length_addrBytes a

theorem length_chainBytes (c : Option ChainTarget) : (chainBytes c).length = 2 := by
  obtain - | k | k | - := c <;> rfl

/-! ### What a field's bytes carry -/

section
variable (bs : List Byte)

theorem byteAt_oneByte {n : Nat} (fits : n ≤ 255) : byteAt (oneByte n ++ bs) 0 = n := by
  show (BitVec.ofNat 8 n).toNat = n
  rw [BitVec.toNat_ofNat]
  omega

theorem wordAt_twoBytes {n : Nat} (fits : n ≤ 65535) : wordAt (twoBytes n ++ bs) 0 = n := by
  show (BitVec.ofNat 8 n).toNat + 256 * (BitVec.ofNat 8 (n / 256)).toNat = n
  rw [BitVec.toNat_ofNat, BitVec.toNat_ofNat]
  omega

theorem wordAt_bitVec (x : BitVec 16) : BitVec.ofNat 16 (wordAt (twoBytes x.toNat ++ bs) 0) = x := by
  rw [wordAt_twoBytes bs (by have := x.isLt; omega), BitVec.ofNat_toNat, BitVec.setWidth_eq]

theorem intAt_leSigned {v : Int} (range : signalRange v) : intAt (leSigned v ++ bs) 0 = v := by
  obtain ⟨least, most⟩ := range
  have word : wordAt (leSigned v ++ bs) 0 = (BitVec.ofInt 16 v).toNat :=
    wordAt_twoBytes bs (by have := (BitVec.ofInt 16 v).isLt; omega)
  rw [intAt, word, BitVec.ofNat_toNat, BitVec.setWidth_eq, BitVec.toInt_ofInt]
  exact Int.bmod_eq_of_le (by omega) (by omega)

theorem flagOf_flagBytes (b : Bool) : flagOf (byteAt (flagBytes b ++ bs) 0) = some b := by cases b <;> rfl

theorem directionOf_directionCode (d : Direction) : directionOf (byteAt (oneByte (directionCode d) ++ bs) 0) = some d := by
  cases d <;> rfl

theorem ownerOf_ownerCode (o : Owner) : ownerOf (byteAt (oneByte (ownerCode o) ++ bs) 0) = some o := by cases o <;> rfl

theorem rateOf_rateCode (r : Rate) : rateOf (byteAt (oneByte (rateCode r) ++ bs) 0) = some r := by cases r <;> rfl

theorem testOf_testCode (t : Test) : testOf (byteAt (oneByte (testCode t) ++ bs) 0) = some t := by cases t <;> rfl

theorem scaleOf_factor (x : Scale) : scaleOf (byteAt (oneByte x.factor ++ bs) 0) = some x := by cases x <;> rfl

theorem upTo_of_le {hi k : Nat} (h : k ≤ hi) : upTo hi k = some k := if_pos h

theorem optByte_optByteBytes {n : Nat} (small : n ≤ 255) (x : Option (Fin n)) :
    optByte n (byteAt (optByteBytes x ++ bs) 0) = some x := by
  cases x with
  | none => rfl
  | some i => rw [optByteBytes, byteAt_oneByte bs (by omega), optByte, if_neg (by omega), finOf_val]; rfl

theorem optWord_optWordBytes {n : Nat} (small : n ≤ 65535) (x : Option (Fin n)) :
    optWord n (wordAt (optWordBytes x ++ bs) 0) = some x := by
  cases x with
  | none => rw [optWordBytes, wordAt_twoBytes bs le_rfl]; exact if_pos rfl
  | some i => rw [optWordBytes, wordAt_twoBytes bs (by omega), optWord, if_neg (by omega), finOf_val]; rfl

theorem chainOf_chainBytes (c : Option ChainTarget) :
    chainOf (byteAt (chainBytes c ++ bs) 0) (byteAt (chainBytes c ++ bs) 1) = some c := by
  have slot : ∀ k : SlotIx, finOf 16 (BitVec.ofNat 8 k.val).toNat = some k := fun k => by
    rw [BitVec.toNat_ofNat, Nat.mod_eq_of_lt (by omega), finOf_val]
  obtain - | k | k | - := c
  · rfl
  · exact congrArg (Option.map _) (slot k)
  · exact congrArg (Option.map _) (slot k)
  · rfl

theorem addrOf_addrBytes (a : SigAddr) : addrOf (addrBytes a ++ bs) 0 = some a := by
  have base : finOf 512 (wordAt (addrBytes a ++ bs) 0) = some a.base := by
    rw [addrBytes, List.append_assoc, List.append_assoc, wordAt_twoBytes _ (by omega), finOf_val]
  have selector : optWord 512 (wordAt (addrBytes a ++ bs) 2) = some a.selector := by
    rw [addrBytes, List.append_assoc, List.append_assoc, wordAt_past _ (length_twoBytes _).le]
    exact optWord_optWordBytes _ (by decide) a.selector
  have scale : scaleOf (byteAt (addrBytes a ++ bs) 4) = some a.scale := by
    have before : (twoBytes a.base.val ++ optWordBytes a.selector).length = 4 := by
      rw [List.length_append, length_twoBytes, length_optWordBytes]
    rw [addrBytes, List.append_assoc, byteAt_past _ before.le, before]
    exact scaleOf_factor _ a.scale
  rw [addrOf, base, selector, scale]
  rfl

theorem optAddrOf_optAddrBytes (a : Option SigAddr) : optAddrOf (optAddrBytes a ++ bs) 0 = some a := by
  cases a with
  | none =>
    rw [optAddrOf, optAddrBytes, List.append_assoc, List.append_assoc, wordAt_twoBytes _ le_rfl]
    exact if_pos rfl
  | some a =>
    have base : wordAt (addrBytes a ++ bs) 0 ≠ 0xFFFF := by
      rw [addrBytes, List.append_assoc, List.append_assoc, wordAt_twoBytes _ (by omega)]
      omega
    rw [optAddrOf, optAddrBytes, if_neg base, addrOf_addrBytes]
    rfl

end

/-! ### The same facts gathered, for the runs of fields below -/

/-- How a reader passes over a field. -/
theorem readers_past (xs bs : List Byte) (k : Nat) :
    (xs.length ≤ k → byteAt (xs ++ bs) k = byteAt bs (k - xs.length)) ∧
    (xs.length ≤ k → wordAt (xs ++ bs) k = wordAt bs (k - xs.length)) ∧
    (xs.length ≤ k → intAt (xs ++ bs) k = intAt bs (k - xs.length)) ∧
    (xs.length ≤ k → addrOf (xs ++ bs) k = addrOf bs (k - xs.length)) ∧
    (xs.length ≤ k → optAddrOf (xs ++ bs) k = optAddrOf bs (k - xs.length)) :=
  ⟨byteAt_past bs, wordAt_past bs, intAt_past bs, addrOf_past bs, optAddrOf_past bs⟩

/-- How long each field is. -/
theorem field_lengths :
    (∀ b, (flagBytes b).length = 1) ∧ (∀ n, (oneByte n).length = 1) ∧ (∀ n, (twoBytes n).length = 2) ∧
    (∀ v, (leSigned v).length = 2) ∧ (∀ (n : Nat) (x : Option (Fin n)), (optByteBytes x).length = 1) ∧
    (∀ a, (addrBytes a).length = 5) ∧ (∀ a, (optAddrBytes a).length = 5) ∧ (∀ c, (chainBytes c).length = 2) :=
  ⟨length_flagBytes, length_oneByte, length_twoBytes, length_leSigned, fun _ => length_optByteBytes, length_addrBytes,
    length_optAddrBytes, length_chainBytes⟩

/-- The fields that carry any value of their type. -/
theorem fields_carry (bs : List Byte) :
    (∀ b, flagOf (byteAt (flagBytes b ++ bs) 0) = some b) ∧
    (∀ d, directionOf (byteAt (oneByte (directionCode d) ++ bs) 0) = some d) ∧
    (∀ o, ownerOf (byteAt (oneByte (ownerCode o) ++ bs) 0) = some o) ∧
    (∀ r, rateOf (byteAt (oneByte (rateCode r) ++ bs) 0) = some r) ∧
    (∀ t, testOf (byteAt (oneByte (testCode t) ++ bs) 0) = some t) ∧
    (∀ c, chainOf (byteAt (chainBytes c ++ bs) 0) (byteAt (chainBytes c ++ bs) 1) = some c) ∧
    (∀ a, addrOf (addrBytes a ++ bs) 0 = some a) ∧
    (∀ a, optAddrOf (optAddrBytes a ++ bs) 0 = some a) ∧
    (∀ x : BitVec 16, BitVec.ofNat 16 (wordAt (twoBytes x.toNat ++ bs) 0) = x) ∧
    (∀ x : Option (Fin 64), optByte 64 (byteAt (optByteBytes x ++ bs) 0) = some x) ∧
    (∀ x : Option (Fin 32), optByte 32 (byteAt (optByteBytes x ++ bs) 0) = some x) ∧
    (∀ i : Fin 512, finOf 512 (wordAt (twoBytes i.val ++ bs) 0) = some i) :=
  ⟨flagOf_flagBytes bs, directionOf_directionCode bs, ownerOf_ownerCode bs, rateOf_rateCode bs, testOf_testCode bs,
    chainOf_chainBytes bs, addrOf_addrBytes bs, optAddrOf_optAddrBytes bs, wordAt_bitVec bs, optByte_optByteBytes bs (by decide),
    optByte_optByteBytes bs (by decide), fun i => by rw [wordAt_twoBytes bs (by omega), finOf_val]⟩

/-- The fields that carry the numbers of a range. -/
theorem numbers_carry (bs : List Byte) :
    (∀ n, n ≤ 255 → byteAt (oneByte n ++ bs) 0 = n) ∧ (∀ n, n ≤ 65535 → wordAt (twoBytes n ++ bs) 0 = n) :=
  ⟨fun _ => byteAt_oneByte bs, fun _ => wordAt_twoBytes bs⟩

end Sys2Proof.Machine
end

section
namespace Sys2Proof.Machine

/-! ### Records read back (R155, R156) -/

section
variable (rest : List Byte)

theorem areaOf?_areaBytes (a : AreaEntry) : areaOf? (areaBytes a ++ rest) = some a := by
  have long : ¬(areaBytes a ++ rest).length < 7 := by simp only [areaBytes, List.length_append, field_lengths]; omega
  rw [areaOf?, if_neg long]
  simp only [areaBytes, List.append_assoc, readers_past, field_lengths, Nat.reduceLeDiff, Nat.reduceSub, fields_carry]
  rfl

theorem lineOf?_lineBytes {e : LineEntry} (period : e.cyclePeriod ≤ 255) (search : e.searchInterval ≤ 65535) (i : Fin 3) :
    lineOf? i (lineBytes e ++ rest) = some ({ e with
      cyclePeriod := (clampIf (i != 2) 2 100 e.cyclePeriod).1, searchInterval := (clampIf (i == 0) 20 500 e.searchInterval).1 },
      (clampIf (i != 2) 2 100 e.cyclePeriod).2 || (clampIf (i == 0) 20 500 e.searchInterval).2) := by
  have long : ¬(lineBytes e ++ rest).length < 5 := by simp only [lineBytes, List.length_append, field_lengths]; omega
  rw [lineOf?, if_neg long]
  simp only [lineBytes, List.append_assoc, readers_past, field_lengths, Nat.reduceLeDiff, Nat.reduceSub, fields_carry]
  simp (disch := omega) only [numbers_carry]
  rfl

theorem profileOf?_profileBytes (p : Profile) : profileOf? (profileBytes p ++ rest) = some p := by
  have long : ¬(profileBytes p ++ rest).length < 3 := by simp only [profileBytes, List.length_append, field_lengths]; omega
  rw [profileOf?, if_neg long]
  simp only [profileBytes, List.append_assoc, readers_past, field_lengths, Nat.reduceLeDiff, Nat.reduceSub, fields_carry]
  rfl

theorem tag_toNat (tag : BitVec 6) : tag.toNat ≤ 63 ∧ BitVec.ofNat 6 tag.toNat = tag :=
  ⟨by have := tag.isLt; omega, by rw [BitVec.ofNat_toNat, BitVec.setWidth_eq]⟩

/-- R84: the node addresses that a record of each direction may hold. -/
theorem nodeOf_toNat {d : Direction} {node : BitVec 5} (least : 1 ≤ node.toNat) (most : d = .inbound → node.toNat ≤ 30) :
    nodeOf d node.toNat = some node := by
  have back : BitVec.ofNat 5 node.toNat = node := by rw [BitVec.ofNat_toNat, BitVec.setWidth_eq]
  cases d with
  | inbound => rw [nodeOf, if_pos ⟨least, most rfl⟩, back]
  | outbound => rw [nodeOf, if_pos ⟨least, by have := node.isLt; omega⟩, back]

theorem masterOf?_masterBytes {m : MasterSlot} (node : nodeOf m.direction m.node.toNat = some m.node)
    (length : m.length ≤ 16) (window : m.window ≤ 65535) (limit : m.missLimit ≤ 255) (first : m.first ≤ 383) (count : m.count ≤ 24) :
    masterOf? (masterBytes m ++ rest) = some ({ m with
      window := (clampIf (m.direction == .inbound) 20 1000 m.window).1
      missLimit := (clampIf (m.direction == .inbound) 1 15 m.missLimit).1 },
      (clampIf (m.direction == .inbound) 20 1000 m.window).2 || (clampIf (m.direction == .inbound) 1 15 m.missLimit).2) := by
  obtain ⟨htag, tag⟩ := tag_toNat m.tag
  have hnode := m.node.isLt
  have long : ¬(masterBytes m ++ rest).length < 14 := by simp only [masterBytes, List.length_append, field_lengths]; omega
  rw [masterOf?, if_neg long]
  simp only [masterBytes, List.append_assoc, readers_past, field_lengths, Nat.reduceLeDiff, Nat.reduceSub, fields_carry]
  simp (disch := omega) only [numbers_carry, upTo_of_le, Option.pure_def, Option.bind_eq_bind, Option.bind_some, node, tag]

theorem festoonOf?_festoonBytes {f : FestoonSlot} (length : f.length ≤ 16) (first : f.first ≤ 383) (count : f.count ≤ 24)
    (limit : f.staleLimit ≤ 65535) : festoonOf? (festoonBytes f ++ rest) = some ({ f with
      staleLimit := (clampIf (f.direction == .inbound) 5 1000 f.staleLimit).1 },
      (clampIf (f.direction == .inbound) 5 1000 f.staleLimit).2) := by
  obtain ⟨htag, tag⟩ := tag_toNat f.tag
  have long : ¬(festoonBytes f ++ rest).length < 11 := by simp only [festoonBytes, List.length_append, field_lengths]; omega
  rw [festoonOf?, if_neg long]
  simp only [festoonBytes, List.append_assoc, readers_past, field_lengths, Nat.reduceLeDiff, Nat.reduceSub, fields_carry]
  simp (disch := omega) only [numbers_carry, upTo_of_le, Option.pure_def, Option.bind_eq_bind, Option.bind_some, tag]

theorem placementOf?_placementBytes {p : Placement} (offset : p.offset ≤ 255) (least : 1 ≤ p.width) (most : p.width ≤ 16) :
    placementOf? (placementBytes p ++ rest) = some p := by
  have long : ¬(placementBytes p ++ rest).length < 13 := by simp only [placementBytes, List.length_append, field_lengths]; omega
  rw [placementOf?, if_neg long]
  simp only [placementBytes, List.append_assoc, readers_past, field_lengths, Nat.reduceLeDiff, Nat.reduceSub, fields_carry]
  simp (disch := omega) only [numbers_carry, upTo_of_le, Option.pure_def, Option.bind_eq_bind, Option.bind_some, if_neg]

theorem conversionOf?_conversionBytes {c : Conversion} (o : signalRange c.o) (g : signalRange c.g) (s : c.s ≤ 15)
    (offset : signalRange c.c) (lo : signalRange c.lo) (hi : signalRange c.hi) (order : c.lo ≤ c.hi) :
    conversionOf? (conversionBytes c ++ rest) = some c := by
  have long : ¬(conversionBytes c ++ rest).length < 12 := by simp only [conversionBytes, List.length_append, field_lengths]; omega
  rw [conversionOf?, if_neg long]
  simp only [conversionBytes, List.append_assoc, readers_past, field_lengths, Nat.reduceLeDiff, Nat.reduceSub, fields_carry,
    intAt_leSigned, o, g, offset, lo, hi]
  simp (disch := omega) only [numbers_carry, upTo_of_le, Option.pure_def, Option.bind_eq_bind, Option.bind_some, if_neg]

theorem gateOf?_gateBytes {g : Gate} (count : g.termCount ≤ 8) (k : g.k ≤ 255) :
    gateOf? (gateBytes g ++ rest) = some ({ g with k := (clampNat 1 15 g.k).1 }, (clampNat 1 15 g.k).2) := by
  have long : ¬(gateBytes g ++ rest).length < 14 := by simp only [gateBytes, List.length_append, field_lengths]; omega
  rw [gateOf?, if_neg long]
  simp only [gateBytes, List.append_assoc, readers_past, field_lengths, Nat.reduceLeDiff, Nat.reduceSub, fields_carry]
  simp (disch := omega) only [numbers_carry, upTo_of_le]
  rfl

theorem termOf?_termBytes (t : Term) : termOf? (termBytes t ++ rest) = some t := by
  have long : ¬(termBytes t ++ rest).length < 9 := by simp only [termBytes, List.length_append, field_lengths]; omega
  rw [termOf?, if_neg long]
  simp only [termBytes, List.append_assoc, readers_past, field_lengths, Nat.reduceLeDiff, Nat.reduceSub, fields_carry]
  rfl

theorem channelOf?_channelBytes (c : Channel) : channelOf? (channelBytes c ++ rest) = some c := by
  have long : ¬(channelBytes c ++ rest).length < 2 := by simp only [channelBytes, List.length_append, field_lengths]; omega
  rw [channelOf?, if_neg long]
  simp only [channelBytes, List.append_assoc, readers_past, field_lengths, Nat.reduceLeDiff, Nat.reduceSub, fields_carry]
  rfl

theorem lSlotOf?_lSlotBytes {l : LSlot} (first : l.first ≤ 383) (count : l.count ≤ 24) : lSlotOf? (lSlotBytes l ++ rest) = some l := by
  have long : ¬(lSlotBytes l ++ rest).length < 3 := by simp only [lSlotBytes, List.length_append, field_lengths]; omega
  rw [lSlotOf?, if_neg long]
  simp only [lSlotBytes, List.append_assoc, readers_past, field_lengths, Nat.reduceLeDiff, Nat.reduceSub]
  simp (disch := omega) only [numbers_carry, upTo_of_le]
  rfl

theorem timingOf?_cons (lo hi : Nat) (n : Byte) : timingOf? lo hi (n :: rest) = some (clampNat lo hi n.toNat) :=
  if_neg (Nat.not_lt.mpr (Nat.le_add_left 1 rest.length))

theorem feedOf?_feedBytes {f : FeedEntry} (order : f.low ≤ f.recover) (most : f.recover ≤ 4095) (nL : f.nL ≤ 255) (nG : f.nG ≤ 255) :
    feedOf? (feedBytes f ++ rest) = some ({ f with nL := (clampNat 1 15 f.nL).1, nG := (clampNat 1 15 f.nG).1 },
      (clampNat 1 15 f.nL).2 || (clampNat 1 15 f.nG).2) := by
  have long : ¬(feedBytes f ++ rest).length < 7 := by simp only [feedBytes, List.length_append, field_lengths]; omega
  rw [feedOf?, if_neg long]
  simp only [feedBytes, List.append_assoc, readers_past, field_lengths, Nat.reduceLeDiff, Nat.reduceSub, fields_carry]
  simp (disch := omega) only [numbers_carry, upTo_of_le, Option.pure_def, Option.bind_eq_bind, Option.bind_some, if_neg]

theorem watchOf?_watchBytes {w : WatchEntry} (deadband : w.deadband ≤ 32767) : watchOf? (watchBytes w ++ rest) = some w := by
  have long : ¬(watchBytes w ++ rest).length < 5 := by simp only [watchBytes, List.length_append, field_lengths]; omega
  rw [watchOf?, if_neg long]
  simp only [watchBytes, List.append_assoc, readers_past, field_lengths, Nat.reduceLeDiff, Nat.reduceSub, fields_carry]
  simp (disch := omega) only [numbers_carry, upTo_of_le]
  rfl

end

end Sys2Proof.Machine
end

section
namespace Sys2Proof.Machine

/-! ### Clamps in the words of the statement (R156) -/

/-- A number brought to the nearer end of a range. -/
def nearerEnd (lo hi n : Nat) : Nat := if n < lo then lo else if hi < n then hi else n

/-- A number lies outside a range. -/
def isOutside (lo hi n : Nat) : Bool := decide (n < lo ∨ hi < n)

theorem clampNat_nearer {lo hi : Nat} (order : lo ≤ hi) (n : Nat) : clampNat lo hi n = (nearerEnd lo hi n, isOutside lo hi n) :=
  clampNat_eq order n

theorem clampIf_nearer {lo hi : Nat} (order : lo ≤ hi) (used : Bool) (n : Nat) : clampIf used lo hi n =
    (if used then nearerEnd lo hi n else n, used && isOutside lo hi n) := by
  cases used with
  | false => rfl
  | true => exact clampNat_nearer order n

/-! ### Entries written (R155) -/

section
variable (t : Tables) (rest : List Byte)

theorem Tables.write_area (k : Fin 8) (a : AreaEntry) :
    t.write .area k.val (areaBytes a ++ rest) = some ({ t with areas := t.areas.set k a }, false) := by
  rw [Tables.write, finOf_val, areaOf?_areaBytes]
  rfl

theorem Tables.write_line (k : Fin 3) {e : LineEntry} (period : e.cyclePeriod ≤ 255) (search : e.searchInterval ≤ 65535) :
    t.write .line k.val (lineBytes e ++ rest) = some ({ t with lines := t.lines.set k { e with
        cyclePeriod := if k = 2 then e.cyclePeriod else nearerEnd 2 100 e.cyclePeriod
        searchInterval := if k = 0 then nearerEnd 20 500 e.searchInterval else e.searchInterval } },
      (k != 2 && isOutside 2 100 e.cyclePeriod) || (k == 0 && isOutside 20 500 e.searchInterval)) := by
  rw [Tables.write, finOf_val, Option.bind_eq_bind, Option.bind_some, lineOf?_lineBytes rest period search, clampIf_nearer (by decide),
    clampIf_nearer (by decide)]
  match k with
  | 0 => rfl
  | 1 => rfl
  | 2 => rfl

theorem Tables.write_profile (k : Fin 4) (p : Profile) :
    t.write .profile k.val (profileBytes p ++ rest) = some ({ t with profiles := t.profiles.set k p }, false) := by
  rw [Tables.write, finOf_val, profileOf?_profileBytes]
  rfl

theorem Tables.write_masterSlot (k : Fin 80) {m : MasterSlot} (nodeLeast : 1 ≤ m.node.toNat)
    (nodeMost : m.direction = .inbound → m.node.toNat ≤ 30) (length : m.length ≤ 16) (window : m.window ≤ 65535)
    (limit : m.missLimit ≤ 255) (first : m.first ≤ 383) (count : m.count ≤ 24) :
    t.write .slot k.val (masterBytes m ++ rest) =
      match m.direction with
      | .inbound => some ({ t with masterSlots := t.masterSlots.set k { m with
          window := nearerEnd 20 1000 m.window, missLimit := nearerEnd 1 15 m.missLimit } },
          isOutside 20 1000 m.window || isOutside 1 15 m.missLimit)
      | .outbound => some ({ t with masterSlots := t.masterSlots.set k m }, false) := by
  rw [Tables.write, if_pos k.isLt, finOf_val,
    masterOf?_masterBytes rest (nodeOf_toNat nodeLeast nodeMost) length window limit first count, clampIf_nearer (by decide),
    clampIf_nearer (by decide)]
  obtain ⟨enabled, direction, _, _, _, _, _, _, _, _, _⟩ := m
  cases direction <;> rfl

theorem Tables.write_festoonSlot (k : Fin 16) {f : FestoonSlot} (length : f.length ≤ 16) (first : f.first ≤ 383)
    (count : f.count ≤ 24) (limit : f.staleLimit ≤ 65535) :
    t.write .slot (80 + k.val) (festoonBytes f ++ rest) =
      match f.direction with
      | .inbound => some ({ t with festoonSlots := t.festoonSlots.set k { f with staleLimit := nearerEnd 5 1000 f.staleLimit } },
          isOutside 5 1000 f.staleLimit)
      | .outbound => some ({ t with festoonSlots := t.festoonSlots.set k f }, false) := by
  rw [Tables.write, if_neg (by omega), Nat.add_sub_cancel_left, finOf_val, festoonOf?_festoonBytes rest length first count limit,
    clampIf_nearer (by decide)]
  obtain ⟨enabled, direction, _, _, _, _, _, _⟩ := f
  cases direction <;> rfl

theorem Tables.write_placement (k : Fin 384) {p : Placement} (offset : p.offset ≤ 255) (least : 1 ≤ p.width) (most : p.width ≤ 16) :
    t.write .placement k.val (placementBytes p ++ rest) = some ({ t with placements := t.placements.set k p }, false) := by
  rw [Tables.write, finOf_val, placementOf?_placementBytes rest offset least most]
  rfl

theorem Tables.write_conversion (k : Fin 64) {c : Conversion} (o : signalRange c.o) (g : signalRange c.g) (s : c.s ≤ 15)
    (offset : signalRange c.c) (lo : signalRange c.lo) (hi : signalRange c.hi) (order : c.lo ≤ c.hi) :
    t.write .conversion k.val (conversionBytes c ++ rest) = some ({ t with conversions := t.conversions.set k c }, false) := by
  rw [Tables.write, finOf_val, conversionOf?_conversionBytes rest o g s offset lo hi order]
  rfl

theorem Tables.write_gate (k : Fin 32) {g : Gate} (count : g.termCount ≤ 8) (rise : g.k ≤ 255) :
    t.write .gate k.val (gateBytes g ++ rest) =
      some ({ t with gates := t.gates.set k { g with k := nearerEnd 1 15 g.k } }, isOutside 1 15 g.k) := by
  rw [Tables.write, if_neg (by omega), finOf_val, gateOf?_gateBytes rest count rise, clampNat_nearer (by decide)]
  rfl

theorem Tables.write_sweep (n : Byte) :
    t.write .gate 32 (n :: rest) = some ({ t with sweepPeriod := nearerEnd 1 20 n.toNat }, isOutside 1 20 n.toNat) := by
  rw [Tables.write, if_pos rfl, timingOf?_cons, clampNat_nearer (by decide)]
  rfl

theorem Tables.write_term (k : Fin 256) (a : Term) :
    t.write .term k.val (termBytes a ++ rest) = some ({ t with terms := t.terms.set k a }, false) := by
  rw [Tables.write, finOf_val, termOf?_termBytes]
  rfl

theorem Tables.write_channel (k : Fin 16) (a : Channel) :
    t.write .trolley k.val (channelBytes a ++ rest) = some ({ t with channels := t.channels.set k a }, false) := by
  rw [Tables.write, if_pos k.isLt, finOf_val, channelOf?_channelBytes]
  · rfl
  all_goals omega

theorem Tables.write_input (k : Fin 16) (n : Byte) : t.write .trolley (16 + k.val) (n :: rest) =
    some ({ t with inputQ := t.inputQ.set k (nearerEnd 1 7 n.toNat) }, isOutside 1 7 n.toNat) := by
  rw [Tables.write, if_neg (by omega), if_pos (by omega), Nat.add_sub_cancel_left, finOf_val, timingOf?_cons,
    clampNat_nearer (by decide)]
  · rfl
  all_goals omega

theorem Tables.write_lSlots {l : LSlot} (first : l.first ≤ 383) (count : l.count ≤ 24) :
    t.write .trolley 32 (lSlotBytes l ++ rest) = some ({ t with l0 := l }, false) ∧
    t.write .trolley 33 (lSlotBytes l ++ rest) = some ({ t with l1 := l }, false) ∧
    t.write .trolley 34 (lSlotBytes l ++ rest) = some ({ t with l2 := l }, false) := by
  have stored (f : LSlot → Tables × Bool) : (lSlotOf? (lSlotBytes l ++ rest)).map f = some (f l) := by
    rw [lSlotOf?_lSlotBytes rest first count, Option.map_some]
  exact ⟨stored _, stored _, stored _⟩

theorem Tables.write_scan (n : Byte) :
    t.write .trolley 35 (n :: rest) = some ({ t with scanPeriod := nearerEnd 2 50 n.toNat }, isOutside 2 50 n.toNat) := by
  have stored (f : Nat × Bool → Tables × Bool) :
      (timingOf? 2 50 (n :: rest)).map f = some (f (nearerEnd 2 50 n.toNat, isOutside 2 50 n.toNat)) := by
    rw [timingOf?_cons, clampNat_nearer (by decide), Option.map_some]
  exact stored fun a => ({ t with scanPeriod := a.1 }, a.2)

theorem Tables.write_feed (k : Fin 2) {f : FeedEntry} (order : f.low ≤ f.recover) (most : f.recover ≤ 4095) (nL : f.nL ≤ 255)
    (nG : f.nG ≤ 255) : t.write .feed k.val (feedBytes f ++ rest) =
      some ({ t with feeds := t.feeds.set k { f with nL := nearerEnd 1 15 f.nL, nG := nearerEnd 1 15 f.nG } },
        isOutside 1 15 f.nL || isOutside 1 15 f.nG) := by
  rw [Tables.write, finOf_val, feedOf?_feedBytes rest order most nL nG, clampNat_nearer (by decide), clampNat_nearer (by decide)]
  rfl

theorem Tables.write_watchEntry (k : Fin 8) {w : WatchEntry} (deadband : w.deadband ≤ 32767) :
    t.write .watch k.val (watchBytes w ++ rest) = some ({ t with watch := t.watch.set k w }, false) := by
  rw [Tables.write, finOf_val, watchOf?_watchBytes rest deadband]
  rfl

end

/-- Settles O13: the fields' bytes constant by constant, then a write of each kind of record. -/
theorem writtenRecordsReadBack : Obligations.WrittenRecordsReadBack := by
  constructor
  · intro byte word signed flag direction address chain
    have hdirection : ∀ d, oneByte (directionCode d) = [direction d] := by intro d; cases d <;> rfl
    have haddress : ∀ a, addrBytes a = address a := by
      rintro ⟨base, selector, scale⟩
      cases selector <;> cases scale <;> rfl
    have hchain : ∀ c, chainBytes c = chain c := by rintro (- | - | - | -) <;> rfl
    refine ⟨fun a => ?_, fun e => ?_, fun p => rfl, fun m => ?_, fun f => ?_, fun p => ?_, fun c => ?_, fun g => ?_, fun t => ?_,
      fun c => rfl, fun l => rfl, fun f => rfl, fun w => rfl⟩
    · obtain ⟨enabled, first, last, owner, forceable⟩ := a
      cases owner <;> rfl
    · obtain ⟨enabled, rate, period, search⟩ := e
      cases rate <;> rfl
    · rw [masterBytes, hdirection, hchain]
      rfl
    · rw [festoonBytes, hdirection, hchain]
      rfl
    · rw [placementBytes, hdirection, haddress, List.append_assoc _ (optByteBytes _) (optByteBytes _)]
      cases p.conversion <;> cases p.gate <;> rfl
    · simp only [conversionBytes, leSigned_eq]
      rfl
    · rw [gateBytes, hchain]
      cases g.rearm with
      | none => rfl
      | some a => rw [optAddrBytes, haddress]; rfl
    · rw [termBytes, haddress, List.append_assoc (address t.addr)]
      cases t.test <;> rfl
  · intro t rest nearer outside
    exact ⟨t.write_area rest, fun k _ => t.write_line rest k, t.write_profile rest, fun k _ => t.write_masterSlot rest k,
      fun k _ => t.write_festoonSlot rest k, fun k _ => t.write_placement rest k, fun k _ => t.write_conversion rest k,
      fun k _ => t.write_gate rest k, t.write_sweep rest, t.write_term rest, t.write_channel rest, t.write_input rest,
      fun _ => t.write_lSlots rest, t.write_scan rest, fun k _ => t.write_feed rest k, fun k _ => t.write_watchEntry rest k⟩

end Sys2Proof.Machine
end

/-! # Proofs about the cycles of a master port (R87, R95, R98)

Which visit a cycle makes next is said once for `State.nextVisit` and `State.visit`; what a cycle's timer and a turn boundary make of the
port is said once per course that they take. -/

section
namespace Sys2Proof.Machine

/-! ### Visits (R87) -/

/-- The next visit that is a turn is the one of the lowest slot at or after the place whose visit is a turn. -/
theorem State.nextVisit_eq_some {s : State} {l : MasterLine} {place : Nat} {k : SlotIx} {kind : TurnKind} :
    s.nextVisit l place = some (k, kind) ↔
      place ≤ k.val ∧ s.visit l k = some kind ∧ ∀ j, place ≤ j.val → j < k → s.visit l j = none := by
  have found : ∀ i, (if place ≤ i.val then (s.visit l i).map fun t => (i, t) else none) = some (k, kind) ↔
      i = k ∧ place ≤ k.val ∧ s.visit l k = some kind := fun i => by
    simp only [Option.ite_none_right_eq_some, Option.map_eq_some_iff, Prod.mk.injEq]
    constructor
    · rintro ⟨reached, t, visit, rfl, rfl⟩
      exact ⟨rfl, reached, visit⟩
    · rintro ⟨rfl, reached, visit⟩
      exact ⟨reached, kind, visit, rfl, rfl⟩
  rw [State.nextVisit, (findSome_indices _).1]
  simp only [found, ite_eq_right_iff, Option.map_eq_none_iff]
  constructor
  · rintro ⟨i, ⟨rfl, reached, visit⟩, earlier⟩
    exact ⟨reached, visit, fun j hj below => earlier j below hj⟩
  · rintro ⟨reached, visit, earlier⟩
    exact ⟨k, ⟨rfl, reached, visit⟩, fun j below hj => earlier j hj below⟩

theorem State.nextVisit_eq_none {s : State} {l : MasterLine} {place : Nat} :
    s.nextVisit l place = none ↔ ∀ k, place ≤ k.val → s.visit l k = none := by
  rw [State.nextVisit, (findSome_indices _).2]
  simp

/-- R87: the table of visits. -/
theorem State.visit_eq_some {s : State} {l : MasterLine} {k : SlotIx} {kind : TurnKind} : s.visit l k = some kind ↔
    ∃ e, s.activeEntry l k = some e ∧ (s.masterRt.get e).status ≠ .disabled ∧
      ((kind = .regularIn ∧ (s.slotRec e).direction = .inbound) ∨
        (kind = .regularOut ∧ (s.slotRec e).direction = .outbound ∧
          ((s.slotRec e).once = true → (s.masterRt.get e).armed = true))) := by
  unfold State.visit
  cases s.activeEntry l k with
  | none => simp
  | some e =>
    by_cases disabled : (s.masterRt.get e).status = .disabled
    · simp [disabled]
    · cases direction : (s.slotRec e).direction with
      | inbound => simp [disabled, direction, eq_comm (a := kind)]
      | outbound =>
        cases once : (s.slotRec e).once with
        | false => simp [disabled, direction, once, eq_comm (a := kind)]
        | true => cases armed : (s.masterRt.get e).armed <;> simp [disabled, direction, once, armed, eq_comm (a := kind)]

/-! ### The cycle timer (R87, R95) -/

theorem exec_cycleTimerExpiry {l : MasterLine} {s : State} (awake : s.awake) (cycling : (s.port l).state = .cycling)
    (timer : (s.port l).cycleTimer ≠ none) : exec (.cycleTimerExpiry l) s = .next (s.cycleExpiry l) :=
  State.occurs_of _ awake (by rw [cycling, Option.isSome_iff_ne_none.mpr timer]; rfl)

theorem State.cycleExpiry_of_none {l : MasterLine} {s : State} (cycle : (s.port l).cycle = none) :
    s.cycleExpiry l = s.startCycle l := by simp only [State.cycleExpiry, cycle]

/-- R95: a timer that expires during a cycle is an overrun. -/
theorem State.cycleExpiry_of_some {l : MasterLine} {s : State} {place : Nat} (cycle : (s.port l).cycle = some place) :
    s.cycleExpiry l = if (s.port l).overrun then
        s.setPort l { s.port l with cycleTimer := none, overdue := true, overrun := true }
      else (s.setPort l { s.port l with cycleTimer := none, overdue := true, overrun := true }).raise (.cycleOverrun l) := by
  have overrun : s.cycleExpiry l = s.cycleOverrun l := by simp only [State.cycleExpiry, cycle]
  exact overrun

theorem State.startCycle_of_visit {l : MasterLine} {s : State} (turn : (s.port l).turn = .none) (queue : (s.port l).queue = [])
    {k : SlotIx} {kind : TurnKind} (visit : s.nextVisit l 0 = some (k, kind)) : s.startCycle l = s.setPort l { s.port l with
      cycle := some (k.val + 1), cycleTimer := some (s.lineEntry (masterLine l)).cyclePeriod, overdue := false, turn := .due kind k } := by
  rw [s.startCycle_of_idle l turn queue, visit]
  rfl

theorem State.startCycle_of_no_visit {l : MasterLine} {s : State} (turn : (s.port l).turn = .none) (queue : (s.port l).queue = [])
    (visit : s.nextVisit l 0 = none) : s.startCycle l = s.setPort l { s.port l with
      cycle := none, cycleTimer := some (s.lineEntry (masterLine l)).cyclePeriod, overdue := false, overrun := false } := by
  rw [s.startCycle_of_idle l turn queue, visit]
  simp [turn]

/-- Settles O30: the expiry starts a cycle, whose first visit is at once or waits, or is an overrun. -/
theorem cycleTimerStartsOrOverruns : Obligations.CycleTimerStartsOrOverruns := by
  refine ⟨fun l s awake cycling timer => ?_, fun s l place =>
    ⟨fun _ _ => State.nextVisit_eq_some, State.nextVisit_eq_none, fun _ _ => State.visit_eq_some⟩⟩
  have run := exec_cycleTimerExpiry awake cycling timer
  refine ⟨fun cycle waits => ?_, fun cycle turn queue => ⟨fun k kind visit => ?_, fun visit => ?_⟩, fun place cycle => ?_⟩
  · have behind : ¬((s.port l).turn = .none ∧ (s.port l).queue = []) := fun ⟨turn, queue⟩ => waits.elim (· turn) (· queue)
    rw [run, State.cycleExpiry_of_none cycle, s.startCycle_behind l behind]
  · rw [run, State.cycleExpiry_of_none cycle, State.startCycle_of_visit turn queue visit]
  · rw [run, State.cycleExpiry_of_none cycle, State.startCycle_of_no_visit turn queue visit]
  · rw [run, State.cycleExpiry_of_some cycle]

end Sys2Proof.Machine
end

section
namespace Sys2Proof.Machine

/-! ### Turn boundaries (R87, R95, R98) -/

/-- R98: an entry of the queue that is given no turn: its slot is a ONCE slot that is not armed. -/
def State.Unarmed (s : State) (l : MasterLine) (k : SlotIx) : Prop :=
  ∃ e, s.activeEntry l k = some e ∧ (s.slotRec e).once = true ∧ (s.masterRt.get e).armed = false

theorem State.servable_eq_false (s : State) (l : MasterLine) (k : SlotIx) : s.servable l k = false ↔ s.Unarmed l k := by
  unfold State.servable State.Unarmed
  cases s.activeEntry l k <;> simp

/-- R98: what stands behind the unarmed entries at the front of a queue. -/
theorem State.dropUnarmed_eq_cons {s : State} {l : MasterLine} {skipped rest : List SlotIx} {k : SlotIx}
    (unarmed : ∀ j ∈ skipped, s.Unarmed l j) (armed : ¬s.Unarmed l k) :
    (skipped ++ k :: rest).dropWhile (fun j => !s.servable l j) = k :: rest := by
  have skip : ∀ j ∈ skipped, (!s.servable l j) = true := fun j member => by rw [(s.servable_eq_false l j).mpr (unarmed j member)]; rfl
  rw [List.dropWhile_append_of_pos skip, List.dropWhile_cons_of_neg]
  simpa using fun refused => armed ((s.servable_eq_false l k).mp refused)

theorem State.dropUnarmed_eq_nil {s : State} {l : MasterLine} {queue : List SlotIx} (unarmed : ∀ j ∈ queue, s.Unarmed l j) :
    queue.dropWhile (fun j => !s.servable l j) = [] :=
  List.dropWhile_eq_nil_iff.mpr fun j member => by rw [(s.servable_eq_false l j).mpr (unarmed j member)]; rfl

theorem State.settleCycle_of_none {s : State} {l : MasterLine} (cycle : (s.port l).cycle = none) (chained : Bool) :
    s.settleCycle l chained = s := by simp only [State.settleCycle, cycle]

/-- R87: a cycle with a turn left goes on, and so does one whose first visit waits behind a chained turn. -/
theorem State.settleCycle_of_waiting {s : State} {l : MasterLine} {place : Nat} (cycle : (s.port l).cycle = some place) {chained : Bool}
    (waiting : s.nextVisit l place ≠ none ∨ (chained = true ∧ place = 0)) : s.settleCycle l chained = s := by
  simp only [State.settleCycle, cycle]
  refine if_neg ?_
  rw [Bool.and_eq_true, s.cycleDone_iff]
  rintro ⟨done, first⟩
  obtain left | ⟨rfl, rfl⟩ := waiting
  · exact left done
  · exact Bool.false_ne_true first

theorem State.settleCycle_of_done {s : State} {l : MasterLine} {place : Nat} (cycle : (s.port l).cycle = some place) {chained : Bool}
    (done : s.nextVisit l place = none) (visited : chained = false ∨ place ≠ 0) : s.settleCycle l chained = s.endCycle l := by
  simp only [State.settleCycle, cycle]
  refine if_pos ?_
  rw [Bool.and_eq_true, s.cycleDone_iff]
  refine ⟨done, ?_⟩
  obtain rfl | visited := visited
  · rfl
  · simp [visited]

theorem State.endCycle_of_overdue {s : State} {l : MasterLine} (overdue : (s.port l).overdue = true) : s.endCycle l = s.setPort l
    { s.port l with cycle := some 0, cycleTimer := some (s.lineEntry (masterLine l)).cyclePeriod, overdue := false } := by
  rw [s.endCycle_eq l, if_pos overdue]

theorem State.endCycle_of_on_time {s : State} {l : MasterLine} (overdue : (s.port l).overdue = false) : s.endCycle l = s.setPort l
    { s.port l with cycle := none, overrun := false } := by
  rw [s.endCycle_eq l, if_neg (by simp [overdue])]

theorem State.atBoundary_of_cons {s : State} {l : MasterLine} {k : SlotIx} {rest : List SlotIx}
    (front : (s.port l).queue.dropWhile (fun j => !s.servable l j) = k :: rest) :
    s.atBoundary l = (s.settleCycle l true).onPort l fun p => { p with queue := rest, turn := .due .chainedOut k } := by
  simp only [State.atBoundary, front]

/-- R98: the part at a turn boundary at which no chained turn is served, before its cycle settles. -/
def State.unchained (l : MasterLine) (s : State) : State := s.setPort l { s.port l with turn := .none, queue := [] }

theorem State.atBoundary_of_nil {s : State} {l : MasterLine} (front : (s.port l).queue.dropWhile (fun j => !s.servable l j) = []) :
    s.atBoundary l = ((s.unchained l).settleCycle l false).takeVisit l := by
  simp only [State.atBoundary, front]
  rfl

@[simp] theorem State.unchained_port (s : State) (l : MasterLine) : (s.unchained l).port l = { s.port l with turn := .none, queue := [] } :=
  State.setPort_port _ _ _

theorem State.unchained_nextVisit (s : State) (l : MasterLine) (place : Nat) :
    (s.unchained l).nextVisit l place = s.nextVisit l place := State.nextVisit_setPort _ _ _ _ _ rfl

theorem State.takeVisit_of_visit {s : State} {l : MasterLine} {place : Nat} (cycle : (s.port l).cycle = some place) {k : SlotIx}
    {kind : TurnKind} (visit : s.nextVisit l place = some (k, kind)) :
    s.takeVisit l = s.setPort l { s.port l with turn := .due kind k, cycle := some (k.val + 1) } := by
  simp only [State.takeVisit, cycle, visit, State.onPort_eq]

theorem State.takeVisit_of_no_visit {s : State} {l : MasterLine} {place : Nat} (cycle : (s.port l).cycle = some place)
    (visit : s.nextVisit l place = none) : s.takeVisit l = s.setPort l { s.port l with cycle := none, overrun := false } := by
  simp only [State.takeVisit, cycle, visit, State.onPort_eq]

/-- R87: the cycle goes on with its next turn. -/
theorem State.settled_of_visit {s : State} {l : MasterLine} {place : Nat} (cycle : (s.port l).cycle = some place) {k : SlotIx}
    {kind : TurnKind} (visit : s.nextVisit l place = some (k, kind)) : (s.settleCycle l false).takeVisit l =
      s.setPort l { s.port l with turn := .due kind k, cycle := some (k.val + 1) } := by
  rw [State.settleCycle_of_waiting cycle (.inl (by simp [visit])), State.takeVisit_of_visit cycle visit]

/-- R95: a cycle without a turn left ends on time. -/
theorem State.settled_on_time {s : State} {l : MasterLine} {place : Nat} (cycle : (s.port l).cycle = some place)
    (visit : s.nextVisit l place = none) (overdue : (s.port l).overdue = false) : (s.settleCycle l false).takeVisit l =
      s.setPort l { s.port l with cycle := none, overrun := false } := by
  rw [State.settleCycle_of_done cycle visit (.inl rfl), State.endCycle_of_on_time overdue, State.takeVisit_none _ _ (by simp)]

/-- R95: an overdue cycle without a turn left is followed at once by the next, which makes its first visit. -/
theorem State.settled_overdue {s : State} {l : MasterLine} {place : Nat} (cycle : (s.port l).cycle = some place)
    (visit : s.nextVisit l place = none) (overdue : (s.port l).overdue = true) :
    (s.settleCycle l false).takeVisit l = (s.openCycle l).takeVisit l := by
  rw [State.settleCycle_of_done cycle visit (.inl rfl), State.endCycle_of_overdue overdue, State.openCycle_eq]

theorem State.openCycle_nextVisit (s : State) (l : MasterLine) (place : Nat) : (s.openCycle l).nextVisit l place = s.nextVisit l place :=
  State.nextVisit_setPort _ _ _ _ _ rfl

theorem State.openCycle_port (s : State) (l : MasterLine) : (s.openCycle l).port l = { s.port l with
    cycle := some 0, cycleTimer := some (s.lineEntry (masterLine l)).cyclePeriod, overdue := false } := State.setPort_port _ _ _

theorem exec_turnBoundary {l : MasterLine} {s : State} (awake : s.awake) (ended : (s.port l).atTurnEnd = true) :
    exec (.turnBoundary l) s = .next (s.atBoundary l) := State.occurs_of _ awake ended

/-- Settles O32: the queue's oldest armed entry is served and the cycle settles beside it, or the cycle settles and makes its next
visit. -/
theorem turnBoundaryServesQueueThenCycle : Obligations.TurnBoundaryServesQueueThenCycle := by
  intro l s awake ended unarmed period
  have run := exec_turnBoundary awake ended
  constructor
  · intro skipped k rest queue skips armed served answers
    have boundary := State.atBoundary_of_cons (queue ▸ State.dropUnarmed_eq_cons skips armed)
    have kept : s.settleCycle l true = s → answers served := fun settled => by
      show exec _ s = _
      rw [run, boundary, settled, State.onPort_eq]
    refine ⟨fun cycle => kept (State.settleCycle_of_none cycle true),
      fun cycle => kept (State.settleCycle_of_waiting cycle (.inr ⟨rfl, rfl⟩)),
      fun place cycle visit => kept (State.settleCycle_of_waiting cycle (.inl visit)), fun place cycle visited visit => ?_⟩
    have settled := State.settleCycle_of_done (chained := true) cycle visit (.inr visited)
    refine ⟨fun overdue => ?_, fun overdue => ?_⟩ <;> show exec _ s = _
    · rw [run, boundary, settled, State.endCycle_of_on_time overdue, State.onPort_eq, State.setPort_port, State.setPort_setPort]
    · rw [run, boundary, settled, State.endCycle_of_overdue overdue, State.onPort_eq, State.setPort_port, State.setPort_setPort]
  · intro skips
    have boundary := run.trans (congrArg _ (State.atBoundary_of_nil (State.dropUnarmed_eq_nil skips)))
    have next := s.unchained_nextVisit l
    refine ⟨fun cycle => ?_, fun place cycle => ?_⟩
    · have none : ((s.unchained l).port l).cycle = none := by rw [s.unchained_port l, cycle]
      rw [boundary, State.settleCycle_of_none none, State.takeVisit_none _ _ none, State.unchained]
    · have going : ((s.unchained l).port l).cycle = some place := by rw [s.unchained_port l, cycle]
      refine ⟨fun k kind visit => ?_, fun visit overdue => ?_, fun visit overdue => ⟨fun k kind first => ?_, fun first => ?_⟩⟩
      · rw [boundary, State.settled_of_visit going ((next place).trans visit), s.unchained_port l, State.unchained,
          State.setPort_setPort]
      · rw [boundary, State.settled_on_time going ((next place).trans visit) (by rw [s.unchained_port l, overdue]), s.unchained_port l,
          State.unchained, State.setPort_setPort]
      · rw [boundary, State.settled_overdue going ((next place).trans visit) (by rw [s.unchained_port l, overdue]),
          State.takeVisit_of_visit (by rw [State.openCycle_port]) ((State.openCycle_nextVisit _ _ _).trans ((next 0).trans first))]
        simp [State.openCycle_eq, State.unchained, State.lineEntry, period]
      · rw [boundary, State.settled_overdue going ((next place).trans visit) (by rw [s.unchained_port l, overdue]),
          State.takeVisit_of_no_visit (by rw [State.openCycle_port]) ((State.openCycle_nextVisit _ _ _).trans ((next 0).trans first))]
        simp [State.openCycle_eq, State.unchained, State.lineEntry, period]

end Sys2Proof.Machine
end

/-! # Proofs about the turns of a master port (R88 to R92, R94, R96 to R98)

The frames of OUT and IN turns, misses, chain requests and responses: one equation for each change of the port, and one for the command
that makes it. -/

section
namespace Sys2Proof.Machine

/-! ### OUT turns (R88, R94, R98) -/

theorem State.dueOut_eq_some {l : MasterLine} {kind : TurnKind} {k : SlotIx} {e : MasterIx} {s : State} :
    s.dueOut l = some (kind, k, e) ↔
      (s.port l).state = .cycling ∧ kind ≠ .regularIn ∧ (s.port l).turn = .due kind k ∧ s.activeEntry l k = some e := by
  constructor
  · unfold State.dueOut
    split
    case h_3 => exact nofun
    all_goals
      next j cycling turn =>
      intro due
      obtain ⟨_, entry, ⟨⟩⟩ := Option.map_eq_some_iff.mp due
      exact ⟨cycling, by decide, turn, entry⟩
  · rintro ⟨cycling, out, turn, entry⟩
    cases kind with
    | regularIn => exact absurd rfl out
    | regularOut | chainedOut => simp [State.dueOut, cycling, turn, entry]

/-- R88, R98: an OUT turn begins: its DATA frame is on the wire, and a regular turn serves a request queued for its slot. -/
theorem State.beginOut_eq {l : MasterLine} {kind : TurnKind} {k : SlotIx} {e : MasterIx} {s : State}
    (due : s.dueOut l = some (kind, k, e)) : s.beginOut l = s.setPort l { s.port l with
      turn := .outFrame k
      queue := if kind = .regularOut then (s.port l).queue.filter (· ≠ k) else (s.port l).queue
      link := { (s.port l).link with phase := .sending (s.outFrame e) (s.port l).link.rate } } := by
  simp only [State.beginOut, due, State.send, State.setPhase_eq, State.setLink_master, State.link_masterLine, State.onPort_eq,
    State.setPort_port, State.setPort_setPort]

theorem exec_outTurnStart {l : MasterLine} {kind : TurnKind} {k : SlotIx} {e : MasterIx} {s : State} (awake : s.awake)
    (due : s.dueOut l = some (kind, k, e)) : exec (.outTurnStart l) s = .next (s.beginOut l) :=
  State.occurs_of _ awake (by rw [due]; rfl)

theorem State.sendingOut_eq_some {l : MasterLine} {k : SlotIx} {s : State} :
    s.sendingOut l = some k ↔ (s.port l).state = .cycling ∧ (s.port l).turn = .outFrame k := by
  unfold State.sendingOut
  split <;> simp_all

/-- R94: the end of a frame disarms a ONCE slot. -/
theorem disarmed_eq (m : MasterSlot) (rt : MasterRt) : disarmed m rt = { rt with armed := if m.once then false else rt.armed } := by
  unfold disarmed
  cases m.once <;> rfl

/-- R88, R94, R69: an OUT frame ends: its end is a rest of the line and disarms its slot. -/
theorem State.endOut_eq {l : MasterLine} {k : SlotIx} {e : MasterIx} {s : State} (sending : s.sendingOut l = some k)
    (entry : s.activeEntry l k = some e) : s.endOut l = { s.setPort l { s.port l with
      turn := .outGap k, link := { (s.port l).link with phase := .rested } } with
      masterRt := s.masterRt.set e (disarmed (s.slotRec e) (s.masterRt.get e)) } := by
  simp only [State.endOut, sending, entry, State.setPhase_eq, State.setLink_master, State.link_masterLine, State.onPort_eq,
    State.setPort_port, State.setPort_setPort]
  cases l <;> rfl

theorem exec_outFrameEnd {l : MasterLine} {k : SlotIx} {s : State} (awake : s.awake) (sending : s.sendingOut l = some k) :
    exec (.outFrameEnd l) s = .next (s.endOut l) := State.occurs_of _ awake (by rw [sending]; rfl)

/-! ### IN turns (R89) -/

theorem State.dueIn_eq_some {l : MasterLine} {k : SlotIx} {e : MasterIx} {s : State} : s.dueIn l = some (k, e) ↔
    (s.port l).state = .cycling ∧ (s.port l).turn = .due .regularIn k ∧ s.activeEntry l k = some e := by
  constructor
  · unfold State.dueIn
    split
    case h_2 => exact nofun
    next j cycling turn =>
      intro due
      obtain ⟨_, entry, ⟨⟩⟩ := Option.map_eq_some_iff.mp due
      exact ⟨cycling, turn, entry⟩
  · rintro ⟨cycling, turn, entry⟩
    simp [State.dueIn, cycling, turn, entry]

theorem State.beginIn_eq {l : MasterLine} {k : SlotIx} {e : MasterIx} {s : State} (due : s.dueIn l = some (k, e)) :
    s.beginIn l = s.setPort l { s.port l with
      turn := .poll k, link := { (s.port l).link with phase := .sending (s.pollFrame e) (s.port l).link.rate } } := by
  simp only [State.beginIn, due, State.send, State.setPhase_eq, State.setLink_master, State.link_masterLine, State.onPort_eq,
    State.setPort_port, State.setPort_setPort]

theorem exec_inTurn {l : MasterLine} {k : SlotIx} {e : MasterIx} {s : State} (awake : s.awake) (due : s.dueIn l = some (k, e)) :
    exec (.inTurn l) s = .next (s.beginIn l) := State.occurs_of _ awake (by rw [due]; rfl)

theorem State.polling_eq_some {l : MasterLine} {k : SlotIx} {s : State} :
    s.polling l = some k ↔ (s.port l).state = .cycling ∧ (s.port l).turn = .poll k := by
  unfold State.polling
  split <;> simp_all

/-- R89, R69: the POLL ends: the window opens, and the end of the frame is a rest of the line. -/
theorem State.openWindow_eq {l : MasterLine} {k : SlotIx} {s : State} (polling : s.polling l = some k) :
    s.openWindow l = s.setPort l { s.port l with turn := .window k, link := { (s.port l).link with phase := .rested } } := by
  simp only [State.openWindow, polling, State.setPhase_eq, State.setLink_master, State.link_masterLine, State.onPort_eq,
    State.setPort_port, State.setPort_setPort]

theorem exec_pollEnd {l : MasterLine} {k : SlotIx} {s : State} (awake : s.awake) (polling : s.polling l = some k) :
    exec (.pollEnd l) s = .next (s.openWindow l) := State.occurs_of _ awake (by rw [polling]; rfl)

/-- Settles O31: each turn is due, begins with its frame and goes on with its frame's end. -/
theorem turnsSendTheirFrames : Obligations.TurnsSendTheirFrames := by
  refine ⟨fun l k e s awake cycling entry => ⟨fun turn => ?_, fun turn => ?_⟩,
    fun l k e s awake cycling entry => ⟨fun turn => ?_, fun turn => ?_⟩⟩
  · obtain turn | turn := turn
    · have due := State.dueOut_eq_some.mpr ⟨cycling, by decide, turn, entry⟩
      rw [exec_outTurnStart awake due, State.beginOut_eq due, if_pos rfl, if_pos turn]
      rfl
    · have due := State.dueOut_eq_some.mpr ⟨cycling, by decide, turn, entry⟩
      rw [exec_outTurnStart awake due, State.beginOut_eq due, if_neg (by decide), if_neg (by simp [turn])]
      rfl
  · have sending := State.sendingOut_eq_some.mpr ⟨cycling, turn⟩
    rw [exec_outFrameEnd awake sending, State.endOut_eq sending entry, disarmed_eq]
  · have due := State.dueIn_eq_some.mpr ⟨cycling, turn, entry⟩
    rw [exec_inTurn awake due, State.beginIn_eq due]
    rfl
  · have polling := State.polling_eq_some.mpr ⟨cycling, turn⟩
    rw [exec_pollEnd awake polling, State.openWindow_eq polling]

/-! ### Misses (R90, R92) -/

/-- R92: the table of misses. -/
theorem missedSlot_eq {limit : Nat} (least : 1 ≤ limit) (rt : MasterRt) : missedSlot limit rt =
    match rt.status with
    | .live => if limit = 1 then { rt with status := .lost, misses := 1 } else { rt with status := .missing, misses := 1 }
    | .missing | .awaiting =>
      if rt.misses + 1 < limit then { rt with misses := rt.misses + 1 } else { rt with status := .lost, misses := limit }
    | .lost | .disabled => rt := by
  cases status : rt.status with
  | live =>
    by_cases one : limit = 1
    · simp [missedSlot, status, one]
    · simp [missedSlot, status, one, show ¬limit ≤ 1 by omega]
  | missing | awaiting =>
    by_cases below : rt.misses + 1 < limit
    · simp [missedSlot, status, below, show ¬limit ≤ rt.misses + 1 by omega]
    · simp [missedSlot, status, below, show limit ≤ rt.misses + 1 by omega]
  | lost | disabled => simp [missedSlot, status]

theorem State.waitingFor_eq_some {l : MasterLine} {k : SlotIx} {s : State} :
    s.waitingFor l = some k ↔ (s.port l).state = .cycling ∧ (s.port l).turn = .window k := by
  unfold State.waitingFor
  split <;> simp_all

theorem Work.windowExpiry_eq {l : MasterLine} {k : SlotIx} {w : Work} (waiting : w.st.waitingFor l = some k) :
    w.windowExpiry l = w.miss l k := by simp only [Work.windowExpiry, waiting]

theorem exec_responseWindowExpiry {l : MasterLine} {k : SlotIx} {s : State} (awake : s.awake) (waiting : s.waitingFor l = some k) :
    exec (.responseWindowExpiry l) s = .next (s.work.miss l k).close :=
  (State.occurs_of _ awake (by rw [waiting]; rfl)).trans
    (congrArg (fun w : Work => Host.Outcome.next w.close) (Work.windowExpiry_eq waiting))

/-- Settles O33: the expiry is the miss of `State.miss_taken`, whose counts are those of the table. -/
theorem windowExpiryIsAMiss : Obligations.WindowExpiryIsAMiss :=
  ⟨fun _ _ _ _ awake cycling turn entry =>
    ⟨_, exec_responseWindowExpiry awake (State.waitingFor_eq_some.mpr ⟨cycling, turn⟩), State.miss_taken entry⟩,
   fun _ rt least => missedSlot_eq least rt⟩

/-! ### Chain requests (R96, R97, R139) -/

/-- R97: a request that the port takes, unless its slot is queued already. -/
theorem State.requestTurn_of_taken {s : State} {l : MasterLine} {k : SlotIx} {e : MasterIx} (cycling : (s.port l).state = .cycling)
    (entry : s.activeEntry l k = some e) (live : (s.masterRt.get e).status ≠ .disabled) (out : (s.slotRec e).direction = .outbound)
    (armed : (s.slotRec e).once = true → (s.masterRt.get e).armed = true) :
    s.requestTurn l k = if k ∈ (s.port l).queue then s
      else s.setPort l { s.port l with queue := (s.port l).queue ++ [k] } := by
  have unarmed : ¬((s.slotRec e).once && !(s.masterRt.get e).armed) = true := by
    cases once : (s.slotRec e).once <;> simp_all
  simp [State.requestTurn, cycling, entry, live, out, unarmed, State.onPort_eq]

/-- R97: a request that leaves no record. -/
theorem State.requestTurn_of_dropped {s : State} {l : MasterLine} {k : SlotIx}
    (dropped : (s.port l).state ≠ .cycling ∨ s.activeEntry l k = none ∨ ∃ e, s.activeEntry l k = some e ∧
      ((s.masterRt.get e).status = .disabled ∨ ((s.slotRec e).once = true ∧ (s.masterRt.get e).armed = false))) :
    s.requestTurn l k = s := by
  cases state : (s.port l).state with
  | off | search | held | detached => simp only [State.requestTurn, state]
  | cycling =>
    obtain idle | entry | ⟨e, entry, disabled | ⟨once, unarmed⟩⟩ := dropped
    · exact absurd state idle
    · simp only [State.requestTurn, state, entry]
    · simp [State.requestTurn, state, entry, disabled]
    · simp [State.requestTurn, state, entry, once, unarmed]

/-- Settles O26: a request is handed to its port, whose queue takes it or leaves it. -/
theorem chainRequestsJoinTheQueue : Obligations.ChainRequestsJoinTheQueue := by
  intro s l k target
  have handed : s.requestChain target = s.requestTurn l k := by cases l <;> rfl
  rw [handed]
  exact ⟨fun e cycling entry live out armed => State.requestTurn_of_taken cycling entry live out armed,
    State.requestTurn_of_dropped, rfl⟩

/-! ### Responses (R91) -/

/-- R91: the part after an accepted response, before its events and its chain request. -/
def State.accepted (l : MasterLine) (k : SlotIx) (e : MasterIx) (image : Tab SigRec 512) (s : State) : State :=
  { s.setPort l { s.port l with turn := .inGap k } with
    image := image
    masterRt := s.masterRt.set e { s.masterRt.get e with status := .live, misses := 0, arrival := s.timestamp } }

/-- R91: an acceptance in its order: the payload, the slot, SLOT_REGAINED, the chain request. -/
theorem Work.accept_eq (l : MasterLine) (k : SlotIx) (e : MasterIx) (payload : List Byte) (w : Work) :
    let applied := w.applyRun (w.st.tables.slotRun (w.st.slotRec e)) (payload.take (w.st.slotRec e).length)
    let accepted := w.st.accepted l k e applied.st.image
    w.accept l k e payload = ⟨State.requestIf (w.st.slotRec e).chain
      (if (w.st.masterRt.get e).status = .lost then accepted.raise (.slotRegained (masterLine l) k) else accepted), applied.touched⟩ := by
  intro applied accepted
  have frame : applied.st = { w.st with image := applied.st.image } := w.applyRun_frame _ _
  have slot : (applied.st.onSlot e (acceptedSlot applied.st.timestamp)).onPort l (fun p => { p with turn := .inGap k }) = accepted := by
    rw [frame]
    cases l <;> rfl
  have taken : w.accept l k e payload = (if (w.st.masterRt.get e).status == .lost then
      (Work.mk accepted applied.touched).on (State.raise (.slotRegained (masterLine l) k))
      else Work.mk accepted applied.touched).on (State.requestIf (w.st.slotRec e).chain) := by
    rw [← slot]
    rfl
  rw [taken]
  by_cases lost : (w.st.masterRt.get e).status = .lost
  · rw [if_pos lost, if_pos (beq_iff_eq.mpr lost)]
    rfl
  · rw [if_neg lost, if_neg (by simpa using lost)]
    rfl

/-- R89: a response is DATA with the node address and the tag of the slot whose window is open. -/
theorem State.responseFor_eq_some {l : MasterLine} {f : Frame} {k : SlotIx} {e : MasterIx} {s : State} :
    s.responseFor l f = some (k, e) ↔ (s.port l).turn = .window k ∧ s.activeEntry l k = some e ∧ f.kind = .data ∧
      f.address = (s.slotRec e).node ∧ f.tag = (s.slotRec e).tag := by
  constructor
  · unfold State.responseFor
    split
    case h_1 j turn =>
      split
      · next entry =>
        simp only [Option.ite_none_right_eq_some, Bool.and_eq_true, beq_iff_eq, Option.some.injEq, Prod.mk.injEq]
        rintro ⟨⟨⟨kind, address⟩, tag⟩, rfl, rfl⟩
        exact ⟨turn, entry, kind, address, tag⟩
      · exact nofun
    all_goals exact nofun
  · rintro ⟨turn, entry, kind, address, tag⟩
    simp [State.responseFor, turn, entry, kind, address, tag]

theorem Work.response_eq {l : MasterLine} {f : Frame} {k : SlotIx} {e : MasterIx} {s : State} (response : s.responseFor l f = some (k, e)) :
    s.work.response l f = ((s.judged (masterLine l)).scoreGood (masterLine l)).work.accept l k e f.payload := by
  have unfolded : s.work.response l f = match s.responseFor l f with
    | none => s.work
    | some (k, e) => ((s.judged (masterLine l)).scoreGood (masterLine l)).work.accept l k e f.payload := rfl
  rw [unfolded, response]

theorem exec_masterResponseAccepted {l : MasterLine} {f : Frame} {k : SlotIx} {e : MasterIx} {s : State} (awake : s.awake)
    (fits : frameWithinLimit f = true) (receives : s.masterReceives l = true) (response : s.responseFor l f = some (k, e)) :
    exec (.masterResponseAccepted l f) s =
      .next (((s.judged (masterLine l)).scoreGood (masterLine l)).work.accept l k e f.payload).close :=
  (State.occurs_of _ awake (by rw [fits, receives, response]; rfl)).trans
    (congrArg (fun w : Work => Host.Outcome.next w.close) (Work.response_eq response))

/-- Settles O25: the acceptance of `Work.accept_eq`, on the part after its frame was scored. -/
theorem responseIsAccepted : Obligations.ResponseIsAccepted := by
  intro l f k e s awake fits receives turn entry kind address tag
  obtain ⟨m, hm⟩ : ∃ m, m = (s.judged (masterLine l)).scoreGood (masterLine l) := ⟨_, rfl⟩
  have scored : GoodScored (masterLine l) s m := hm ▸ State.goodScored _ _
  have frame := scored.frame
  have tables : m.tables = s.tables := by rw [frame]; simp
  have runtime : m.masterRt = s.masterRt := by rw [frame]; simp
  have time : m.timestamp = s.timestamp := by rw [frame]; simp
  have slot : m.slotRec e = s.slotRec e := by rw [State.slotRec, tables]; rfl
  refine ⟨m, scored, ?_⟩
  have response := State.responseFor_eq_some.mpr ⟨turn, entry, kind, address, tag⟩
  rw [exec_masterResponseAccepted awake fits receives response, ← hm, Work.accept_eq]
  simp only [State.work_st, State.accepted, tables, runtime, time, slot]

end Sys2Proof.Machine
end

/-! # Proofs about the master ports, their slot sets and their turns (R79, R81, R85, R86, R92, R94, R97, R98, R106)

The two obligations about ports and slots speak of one part of the state, its `Engine`: the two ports without their links, the
attachment, the search, the runtime of the slots and the timer of the Festoon Port. `Engine.Fit` gathers what both say of it, with one
structure for each slot and one for each port. The changes of an engine are few: a port takes a turn or a queue, a port leaves its set or
takes one, slots change their runtime, tables change in CONFIG. Every command keeps the engine or is one of these. -/

section
namespace Sys2Proof.Machine

/-! ### The runtime of one slot (R85, R92, R94) -/

/-- R92: the miss count of an IN slot agrees with its status and stays within its limit. -/
def MasterRt.Counted (limit : Nat) (rt : MasterRt) : Prop :=
  match rt.status with
  | .disabled => False
  | .awaiting => rt.misses < limit
  | .live => rt.misses = 0
  | .missing => 1 ≤ rt.misses ∧ rt.misses < limit
  | .lost => rt.misses = limit

/-- R85, R92, R94: a slot's runtime agrees with its record and with whether its set is active. -/
structure MasterRt.Fits (m : MasterSlot) (active : Prop) (rt : MasterRt) : Prop where
  idle : ¬active ∨ m.enabled = false → rt = .idle
  outbound : active → m.enabled = true → m.direction = .outbound → rt.status = .live ∧ rt.misses = 0
  inbound : active → m.enabled = true → m.direction = .inbound → rt.Counted m.missLimit
  armed : rt.armed = true → m.direction = .outbound ∧ m.once = true

section
variable {m : MasterSlot} {active : Prop} {rt : MasterRt}

theorem MasterRt.idle_fits (h : ¬active ∨ m.enabled = false) : MasterRt.idle.Fits m active := by
  refine ⟨fun _ => rfl, fun on enabled => ?_, fun on enabled => ?_, fun armed => Bool.noConfusion armed⟩ <;>
    exact h.elim (absurd on) fun off => Bool.noConfusion (enabled.symm.trans off)

/-- The runtime of an enabled IN slot of an active set. -/
theorem MasterRt.fits_in (on : active) (enabled : m.enabled = true) (direction : m.direction = .inbound)
    (counted : rt.Counted m.missLimit) (unarmed : rt.armed = false) : rt.Fits m active := by
  refine ⟨?_, fun _ _ out => ?_, fun _ _ _ => counted, fun armed => Bool.noConfusion (unarmed.symm.trans armed)⟩
  · rintro (off | off)
    · exact absurd on off
    · exact Bool.noConfusion (enabled.symm.trans off)
  · exact Direction.noConfusion (direction.symm.trans out)

/-- The runtime of an enabled OUT slot of an active set. -/
theorem MasterRt.fits_out (on : active) (enabled : m.enabled = true) (direction : m.direction = .outbound) (live : rt.status = .live)
    (misses : rt.misses = 0) (once : rt.armed = true → m.once = true) : rt.Fits m active := by
  refine ⟨?_, fun _ _ _ => ⟨live, misses⟩, fun _ _ inbound => ?_, fun armed => ⟨direction, once armed⟩⟩
  · rintro (off | off)
    · exact absurd on off
    · exact Bool.noConfusion (enabled.symm.trans off)
  · exact Direction.noConfusion (direction.symm.trans inbound)

/-- R87: a slot that is not DISABLED stands in an active set and is enabled. -/
theorem MasterRt.Fits.of_status (h : rt.Fits m active) (status : rt.status ≠ .disabled) : active ∧ m.enabled = true := by
  by_contra off
  have idle := h.idle (by by_cases on : active <;> simp_all)
  exact status (congrArg MasterRt.status idle)

theorem MasterRt.Fits.unarmed (h : rt.Fits m active) (direction : m.direction = .inbound) : rt.armed = false := by
  by_contra armed
  exact Direction.noConfusion (direction.symm.trans (h.armed (by simpa using armed)).1)

/-- R85: a slot at the start of its set. -/
theorem MasterRt.started_fits (on : active) (limit : m.enabled = true → m.direction = .inbound → 1 ≤ m.missLimit) :
    (startedSlot m .idle).Fits m active := by
  cases enabled : m.enabled with
  | false => simpa [startedSlot, enabled] using MasterRt.idle_fits (.inr enabled)
  | true =>
    cases direction : m.direction with
    | inbound =>
      refine MasterRt.fits_in on enabled direction ?_ (by simp [startedSlot, enabled, direction])
      simpa [startedSlot, enabled, direction, MasterRt.Counted] using Nat.succ_le_iff.mp (limit enabled direction)
    | outbound => refine MasterRt.fits_out on enabled direction ?_ ?_ ?_ <;> simp [startedSlot, enabled, direction]

/-- R86: a slot as its Cab Port returns to CYCLING. -/
theorem MasterRt.Fits.resumed (h : rt.Fits m active) (on : active)
    (limit : m.enabled = true → m.direction = .inbound → 1 ≤ m.missLimit) : (resumedSlot m rt).Fits m active := by
  cases enabled : m.enabled with
  | false => simpa [resumedSlot, enabled] using h
  | true =>
    cases direction : m.direction with
    | inbound =>
      refine MasterRt.fits_in on enabled direction ?_ (by simpa [resumedSlot, enabled, direction] using h.unarmed direction)
      simpa [resumedSlot, enabled, direction, MasterRt.Counted] using Nat.succ_le_iff.mp (limit enabled direction)
    | outbound =>
      refine MasterRt.fits_out on enabled direction ?_ ?_ ?_ <;> simp only [resumedSlot, enabled, direction, if_true]
      · exact (h.outbound on enabled direction).2
      · exact fun armed => (h.armed armed).2

/-- R92: a miss keeps an IN slot's count to its status and limit. -/
theorem MasterRt.Counted.missed {limit : Nat} (least : 1 ≤ limit) (h : rt.Counted limit) : (missedSlot limit rt).Counted limit := by
  rw [missedSlot_eq least]
  cases status : rt.status with
  | disabled => simp [MasterRt.Counted, status] at h
  | live =>
    by_cases one : limit = 1
    · simp [one, MasterRt.Counted]
    · simp [one, MasterRt.Counted]; omega
  | missing | awaiting =>
    by_cases below : rt.misses + 1 < limit
    · simp [below, MasterRt.Counted]
    · simp [below, MasterRt.Counted]
  | lost => simpa [MasterRt.Counted, status] using h

theorem missedSlot_armed (limit : Nat) (rt : MasterRt) : (missedSlot limit rt).armed = rt.armed := by
  unfold missedSlot
  split <;> (try split) <;> rfl

theorem MasterRt.Fits.missed (h : rt.Fits m active) (on : active) (enabled : m.enabled = true) (direction : m.direction = .inbound)
    (limit : 1 ≤ m.missLimit) : (missedSlot m.missLimit rt).Fits m active :=
  MasterRt.fits_in on enabled direction ((h.inbound on enabled direction).missed limit)
    ((missedSlot_armed _ _).trans (h.unarmed direction))

/-- R79: a slot that its port's detachment makes LOST. -/
theorem MasterRt.Fits.lost (h : rt.Fits m active) (on : active) (enabled : m.enabled = true) (direction : m.direction = .inbound) :
    MasterRt.Fits m active { rt with status := .lost, misses := m.missLimit } :=
  MasterRt.fits_in on enabled direction rfl (h.unarmed direction)

/-- R91: a slot at an acceptance. -/
theorem MasterRt.Fits.accepted (h : rt.Fits m active) (on : active) (enabled : m.enabled = true) (direction : m.direction = .inbound)
    (now : BitVec 16) : MasterRt.Fits m active { rt with status := .live, misses := 0, arrival := now } :=
  MasterRt.fits_in on enabled direction rfl (h.unarmed direction)

/-- R94, R170: an OUT slot is armed or disarmed. -/
theorem MasterRt.Fits.setArmed (h : rt.Fits m active) (on : active) (enabled : m.enabled = true) (direction : m.direction = .outbound)
    {armed : Bool} (once : armed = true → m.once = true) : MasterRt.Fits m active { rt with armed := armed } :=
  have ⟨live, misses⟩ := h.outbound on enabled direction
  MasterRt.fits_out on enabled direction live misses once

end

/-! ### The engine -/

/-- A master port with its link set aside. -/
def MasterPort.unlinked (p : MasterPort) : MasterPort := { p with link := .powerOn }

/-- The part of the state that the consistency of ports and slots speaks of. -/
@[ext] structure Engine where
  operating : Operating
  tables : Tables
  port : MasterLine → MasterPort
  attached : Option ProfileIx
  searchTimer : Option Nat
  hail : HailPhase
  slots : Tab MasterRt 80
  festoon : FestoonState
  festoonTimer : Option Nat

/-- The engine of a state. -/
def State.engine (s : State) : Engine :=
  ⟨s.operating, s.tables, fun l => (s.port l).unlinked, s.attached, s.searchTimer, s.hail, s.masterRt, s.fp.state, s.fp.detachTimer⟩

/-- The record of an entry. -/
def Engine.slotRec (x : Engine) (e : MasterIx) : MasterSlot := x.tables.masterSlots.get e

/-- R85: the states in which the Cab Port has its set. -/
def PortState.hasCabSet : PortState → Bool
  | .cycling | .held | .detached => true
  | .off | .search => false

/-- R85: the entry of a slot in a port's active set. -/
def Engine.entry (x : Engine) (l : MasterLine) (k : SlotIx) : Option MasterIx :=
  match l with
  | .sp => x.attached.map fun p => profileEntry p k
  | .cp => if (x.port .cp).state.hasCabSet then some (cabEntry k) else none

/-- R85: an entry of an active set. -/
def Engine.Active (x : Engine) (e : MasterIx) : Prop := ∃ l k, x.entry l k = some e

/-- A port's active set has this slot, enabled and of this direction. -/
def Engine.HasSlot (x : Engine) (l : MasterLine) (d : Direction) (k : SlotIx) : Prop :=
  ∃ e, x.entry l k = some e ∧ (x.slotRec e).enabled = true ∧ (x.slotRec e).direction = d

/-- R88, R89: a turn is on a slot of its direction. -/
structure Engine.TurnFits (x : Engine) (l : MasterLine) (t : Turn) : Prop where
  inbound : ∀ k, t.inSlot = some k → x.HasSlot l .inbound k
  outbound : ∀ k, t.outSlot = some k → x.HasSlot l .outbound k

/-- R97: a queue holds OUT slots, each once. -/
structure Engine.QueueFits (x : Engine) (l : MasterLine) (q : List SlotIx) : Prop where
  distinct : q.Nodup
  outbound : ∀ k ∈ q, x.HasSlot l .outbound k

/-- R86: a port outside CYCLING, without timer, cycle, turn and queue. -/
structure MasterPort.Idle (p : MasterPort) : Prop where
  state : p.state ≠ .cycling
  cycleTimer : p.cycleTimer = none
  cycle : p.cycle = none
  turn : p.turn = .none
  queue : p.queue = []

/-- R79, R86, R97, R98: a port agrees with its state and its set. -/
structure Engine.PortFits (x : Engine) (l : MasterLine) (p : MasterPort) : Prop where
  idle : p.state ≠ .cycling → p.Idle
  detachTimer : p.detachTimer.isSome ↔ p.state = .detached
  turn : x.TurnFits l p.turn
  queue : x.QueueFits l p.queue

/-- What the ports, their sets and their slots keep to each other. -/
structure Engine.Fit (x : Engine) : Prop where
  config : x.operating = .config → ∀ l, (x.port l).state = .off
  limits : ∀ e, (x.slotRec e).enabled = true → (x.slotRec e).direction = .inbound →
    1 ≤ (x.slotRec e).missLimit ∧ (x.slotRec e).missLimit ≤ 15
  slots : ∀ e, (x.slots.get e).Fits (x.slotRec e) (x.Active e)
  ports : ∀ l, x.PortFits l (x.port l)
  attachment : x.attached.isSome ↔ (x.port .sp).state = .cycling
  profile : ∀ p, x.attached = some p → (x.tables.profiles.get p).enabled = true
  cab : (x.port .cp).state ≠ .search
  search : (x.port .sp).state ≠ .search → x.searchTimer = none ∧ x.hail = .off
  festoonTimer : x.festoonTimer.isSome ↔ x.festoon = .detached

/-! ### The invariant and the engine -/

@[simp] theorem State.engine_slotRec (s : State) (e : MasterIx) : s.engine.slotRec e = s.slotRec e := rfl

@[simp] theorem State.engine_entry (s : State) (l : MasterLine) (k : SlotIx) : s.engine.entry l k = s.activeEntry l k := by
  cases l with
  | sp => rfl
  | cp => cases state : s.cp.state <;> simp [State.activeEntry, Engine.entry, State.engine, State.port, MasterPort.unlinked, state,
      PortState.hasCabSet]

theorem State.engine_active {s : State} {e : MasterIx} : s.engine.Active e ↔ ∃ l k, s.activeEntry l k = some e := by
  simp only [Engine.Active, State.engine_entry]

theorem State.engine_hasSlot {s : State} {l : MasterLine} {d : Direction} {k : SlotIx} : s.engine.HasSlot l d k ↔
    ∃ e, s.activeEntry l k = some e ∧ (s.slotRec e).enabled = true ∧ (s.slotRec e).direction = d := by
  simp only [Engine.HasSlot, State.engine_entry, State.engine_slotRec]

theorem State.Inv.engine_fit {s : State} (h : s.Inv) : s.engine.Fit where
  config config l := by
    obtain ⟨spreader, cab⟩ := h.rest.ports config
    cases l
    · exact spreader
    · exact cab
  limits := h.slots.limits
  slots e := by
    have active : ∀ {l k}, s.engine.entry l k = some e → s.activeEntry l k = some e := fun entry => s.engine_entry _ _ ▸ entry
    refine ⟨fun off => h.slots.inactive e (off.imp_left fun off l k entry => off ⟨l, k, (s.engine_entry l k).trans entry⟩), ?_, ?_,
      h.slots.armed e⟩
    · rintro ⟨l, k, entry⟩
      exact h.slots.outbound l k e (active entry)
    · rintro ⟨l, k, entry⟩
      exact h.slots.inbound l k e (active entry)
  ports l := by
    refine ⟨fun state => ?_, h.ports.detachTimer l, ⟨fun k turn => ?_, fun k turn => ?_⟩, h.ports.distinct l, fun k member => ?_⟩
    · obtain ⟨cycleTimer, cycle, turn, queue⟩ := h.ports.cycling l state
      exact ⟨state, cycleTimer, cycle, turn, queue⟩
    · exact State.engine_hasSlot.mpr (h.slots.inTurns l k turn)
    · exact State.engine_hasSlot.mpr (h.slots.outTurns l k (.inl turn))
    · exact State.engine_hasSlot.mpr (h.slots.outTurns l k (.inr member))
  attachment := h.ports.attachment
  profile := h.ports.profile
  cab := h.ports.cabSearch
  search := h.ports.search
  festoonTimer := h.ports.festoonTimer

theorem Engine.Fit.portInv {s : State} (h : s.engine.Fit) : PortInv s where
  attachment := h.attachment
  profile := h.profile
  cabSearch := h.cab
  cycling l state := by
    obtain ⟨-, cycleTimer, cycle, turn, queue⟩ := (h.ports l).idle state
    exact ⟨cycleTimer, cycle, turn, queue⟩
  distinct l := (h.ports l).queue.distinct
  detachTimer l := (h.ports l).detachTimer
  festoonTimer := h.festoonTimer
  search := h.search

theorem Engine.Fit.slotInv {s : State} (h : s.engine.Fit) : SlotInv s where
  limits := h.limits
  inactive e off := (h.slots e).idle (off.imp_left fun off active =>
    have ⟨l, k, entry⟩ := State.engine_active.mp active
    off l k entry)
  outbound l k e entry := (h.slots e).outbound (State.engine_active.mpr ⟨l, k, entry⟩)
  inbound l k e entry := (h.slots e).inbound (State.engine_active.mpr ⟨l, k, entry⟩)
  armed e := (h.slots e).armed
  inTurns l k turn := State.engine_hasSlot.mp ((h.ports l).turn.inbound k turn)
  outTurns l k := by
    rintro (turn | member)
    · exact State.engine_hasSlot.mp ((h.ports l).turn.outbound k turn)
    · exact State.engine_hasSlot.mp ((h.ports l).queue.outbound k member)

end Sys2Proof.Machine
end

section
namespace Sys2Proof.Machine

/-! ### Engines with the same sets -/

theorem MasterRt.Fits.congr {m : MasterSlot} {a b : Prop} {rt : MasterRt} (h : rt.Fits m a) (same : b ↔ a) : rt.Fits m b :=
  propext same ▸ h

section
variable {x y : Engine} {l : MasterLine}

theorem Engine.HasSlot.kept {d : Direction} {k : SlotIx} (h : x.HasSlot l d k) (entry : ∀ k, y.entry l k = x.entry l k)
    (records : y.tables.masterSlots = x.tables.masterSlots) : y.HasSlot l d k := by
  obtain ⟨e, he, enabled, direction⟩ := h
  have record : y.slotRec e = x.slotRec e := congrArg (fun t : Tab MasterSlot 80 => t.get e) records
  exact ⟨e, (entry k).trans he, record ▸ enabled, record ▸ direction⟩

theorem Engine.QueueFits.kept {q : List SlotIx} (h : x.QueueFits l q) (entry : ∀ k, y.entry l k = x.entry l k)
    (records : y.tables.masterSlots = x.tables.masterSlots) : y.QueueFits l q :=
  ⟨h.distinct, fun k member => (h.outbound k member).kept entry records⟩

theorem Engine.PortFits.kept {p : MasterPort} (h : x.PortFits l p) (entry : ∀ k, y.entry l k = x.entry l k)
    (records : y.tables.masterSlots = x.tables.masterSlots) : y.PortFits l p :=
  ⟨h.idle, h.detachTimer, ⟨fun k turn => (h.turn.inbound k turn).kept entry records,
    fun k turn => (h.turn.outbound k turn).kept entry records⟩, h.queue.kept entry records⟩

theorem Engine.active_congr (entry : ∀ l k, y.entry l k = x.entry l k) (e : MasterIx) : y.Active e ↔ x.Active e := by
  simp only [Engine.Active, entry]

theorem Engine.turnFits_none (x : Engine) (l : MasterLine) : x.TurnFits l .none := ⟨nofun, nofun⟩

theorem Engine.queueFits_nil (x : Engine) (l : MasterLine) : x.QueueFits l [] := ⟨List.nodup_nil, nofun⟩

theorem Engine.QueueFits.sublist {q q' : List SlotIx} (h : x.QueueFits l q) (part : q'.Sublist q) : x.QueueFits l q' :=
  ⟨h.distinct.sublist part, fun k member => h.outbound k (part.subset member)⟩

/-- An idle port fits any engine. -/
theorem MasterPort.Idle.fits {p : MasterPort} (h : p.Idle) (x : Engine) (l : MasterLine)
    (detachTimer : p.detachTimer.isSome ↔ p.state = .detached) : x.PortFits l p :=
  ⟨fun _ => h, detachTimer, h.turn ▸ x.turnFits_none l, h.queue ▸ x.queueFits_nil l⟩

end

/-! ### Ports and slots changed -/

/-- The engine with a port replaced. -/
def Engine.setPort (x : Engine) (l : MasterLine) (p : MasterPort) : Engine := { x with port := Function.update x.port l p }

@[simp] theorem Engine.setPort_port (x : Engine) (l : MasterLine) (p : MasterPort) : (x.setPort l p).port l = p := by
  simp [Engine.setPort]

theorem Engine.setPort_port_of_ne (x : Engine) {l m : MasterLine} (h : m ≠ l) (p : MasterPort) : (x.setPort l p).port m = x.port m := by
  simp [Engine.setPort, h]

/-- R85: a port that has its set or has none as before keeps all sets. -/
theorem Engine.setPort_entry {x : Engine} {l : MasterLine} {p : MasterPort}
    (set : l = .cp → p.state.hasCabSet = (x.port .cp).state.hasCabSet) (m : MasterLine) (k : SlotIx) :
    (x.setPort l p).entry m k = x.entry m k := by
  cases m with
  | sp => rfl
  | cp =>
    cases l with
    | sp => simp only [Engine.entry, x.setPort_port_of_ne (l := .sp) (m := .cp) (by decide)]
    | cp => simp only [Engine.entry, x.setPort_port, set rfl]

variable {x : Engine}

/-- The ports and their sets stay; the slots, the search and the Festoon Port's timer may change within what each says. -/
theorem Engine.Fit.of_ports {y : Engine} (h : x.Fit) (operating : y.operating = x.operating)
    (records : y.tables.masterSlots = x.tables.masterSlots) (profiles : y.tables.profiles = x.tables.profiles) (port : y.port = x.port)
    (attached : y.attached = x.attached) (slots : ∀ e, (y.slots.get e).Fits (x.slotRec e) (x.Active e))
    (search : (x.port .sp).state ≠ .search → y.searchTimer = none ∧ y.hail = .off)
    (festoonTimer : y.festoonTimer.isSome ↔ y.festoon = .detached) : y.Fit := by
  have entry : ∀ l k, y.entry l k = x.entry l k := fun l k => by cases l <;> simp only [Engine.entry, port, attached]
  have record : ∀ e, y.slotRec e = x.slotRec e := fun e => by rw [Engine.slotRec, records]; rfl
  refine ⟨fun config => ?_, fun e => ?_, fun e => ?_, fun l => ?_, ?_, fun p => ?_, ?_, ?_, festoonTimer⟩
  · rw [port]; exact h.config (operating.symm.trans config)
  · rw [record]; exact h.limits e
  · rw [record]; exact (slots e).congr (Engine.active_congr entry e)
  · rw [port]; exact (h.ports l).kept (entry l) records
  · rw [port, attached]; exact h.attachment
  · rw [attached, profiles]; exact h.profile p
  · rw [port]; exact h.cab
  · rw [port]; exact search

theorem Engine.Fit.setSlots (h : x.Fit) {rt : Tab MasterRt 80} (slots : ∀ e, (rt.get e).Fits (x.slotRec e) (x.Active e)) :
    Engine.Fit { x with slots := rt } := h.of_ports rfl rfl rfl rfl rfl slots h.search h.festoonTimer

/-- One slot takes a runtime that fits its record. -/
theorem Engine.Fit.setSlot (h : x.Fit) {e : MasterIx} {rt : MasterRt} (fits : rt.Fits (x.slotRec e) (x.Active e)) :
    Engine.Fit { x with slots := x.slots.set e rt } := by
  refine h.setSlots fun j => ?_
  rw [Tab.get_set]
  split
  · next here => exact here ▸ fits
  · exact h.slots j

/-- A port that keeps its state, or a Cab Port that keeps its set, is replaced by one that fits. -/
theorem Engine.Fit.setPort (h : x.Fit) {l : MasterLine} {p : MasterPort} (fits : x.PortFits l p)
    (state : p.state = (x.port l).state ∨ (l = .cp ∧ p.state.hasCabSet = true ∧ (x.port .cp).state.hasCabSet = true)) :
    (x.setPort l p).Fit := by
  have entry : ∀ m k, (x.setPort l p).entry m k = x.entry m k := by
    refine Engine.setPort_entry fun cab => ?_
    obtain state | ⟨-, new, old⟩ := state
    · rw [state, cab]
    · rw [new, old]
  have off : x.operating = .config → p.state = .off := fun config => by
    obtain state | ⟨-, -, old⟩ := state
    · exact state.trans (h.config config l)
    · rw [h.config config .cp] at old
      cases old
  have others : ∀ {m}, m ≠ l → (x.setPort l p).port m = x.port m := fun other => x.setPort_port_of_ne other p
  refine ⟨fun config m => ?_, h.limits, fun e => (h.slots e).congr (Engine.active_congr entry e), fun m => ?_, ?_, h.profile, ?_, ?_,
    h.festoonTimer⟩
  · by_cases here : m = l
    · rw [here, x.setPort_port]; exact off config
    · rw [others here]; exact h.config config m
  · by_cases here : m = l
    · rw [here, x.setPort_port]; exact fits.kept (entry l) rfl
    · rw [others here]; exact (h.ports m).kept (entry m) rfl
  · cases l with
    | sp => rw [x.setPort_port, state.resolve_right nofun]; exact h.attachment
    | cp => rw [others (by decide)]; exact h.attachment
  · cases l with
    | sp => rw [others (by decide)]; exact h.cab
    | cp =>
      rw [x.setPort_port]
      obtain state | ⟨-, new, -⟩ := state
      · rw [state]; exact h.cab
      · rintro search
        rw [search] at new
        cases new
  · cases l with
    | sp => rw [x.setPort_port, state.resolve_right nofun]; exact h.search
    | cp => rw [others (by decide)]; exact h.search

/-! ### Sets that end and start (R85) -/

theorem Engine.not_profile_cab (p : ProfileIx) (k : SlotIx) : inProfile p (cabEntry k) = false := by
  have := p.isLt
  exact beq_false_of_ne (by simp only [cabEntry]; omega)

theorem Engine.profile_of_entry (p : ProfileIx) (k : SlotIx) : inProfile p (profileEntry p k) = true := by
  have := k.isLt
  exact beq_iff_eq.mpr (by simp only [profileEntry]; omega)

/-- From `x` to `y` the engine differs at the Spreader Port, its attachment, its search and the slots alone. -/
structure Engine.SpreaderOnly (x y : Engine) : Prop where
  operating : y.operating = x.operating
  tables : y.tables = x.tables
  cab : y.port .cp = x.port .cp
  festoon : y.festoon = x.festoon
  festoonTimer : y.festoonTimer = x.festoonTimer

theorem Engine.SpreaderOnly.cabEntry {x y : Engine} (h : x.SpreaderOnly y) (k : SlotIx) : y.entry .cp k = x.entry .cp k := by
  simp only [Engine.entry, h.cab]

/-- The Spreader Port leaves its set, or goes on without one: the slots of the attached profile become idle. -/
theorem Engine.Fit.leave {y : Engine} (h : x.Fit) (only : x.SpreaderOnly y) (attached : y.attached = none) (idle : (y.port .sp).Idle)
    (detachTimer : (y.port .sp).detachTimer.isSome ↔ (y.port .sp).state = .detached)
    (off : x.operating = .config → (y.port .sp).state = .off)
    (search : (y.port .sp).state ≠ .search → y.searchTimer = none ∧ y.hail = .off)
    (slots : ∀ e, if x.attached.any (inProfile · e) then y.slots.get e = .idle
      else (y.slots.get e).Fits (x.slotRec e) (x.Active e)) : y.Fit := by
  have spreader : ∀ k, y.entry .sp k = none := fun k => by simp only [Engine.entry, attached, Option.map_none]
  have record : ∀ e, y.slotRec e = x.slotRec e := fun e => by rw [Engine.slotRec, only.tables]; rfl
  refine ⟨fun config l => ?_, ?_, fun e => ?_, fun l => ?_, ?_, by simp [attached], by rw [only.cab]; exact h.cab, search, ?_⟩
  · cases l with
    | sp => exact off (only.operating.symm.trans config)
    | cp => rw [only.cab]; exact h.config (only.operating.symm.trans config) .cp
  · simp only [record]
    exact h.limits
  · rw [record]
    have slot := slots e
    split at slot
    · next dropped =>
      rw [slot]
      refine MasterRt.idle_fits (.inl ?_)
      rintro ⟨l, k, entry⟩
      cases l with
      | sp => rw [spreader k] at entry; cases entry
      | cp =>
        rw [only.cabEntry k] at entry
        simp only [Engine.entry, Option.ite_none_right_eq_some, Option.some.injEq] at entry
        obtain ⟨-, rfl⟩ := entry
        simp [Engine.not_profile_cab] at dropped
    · next other =>
      refine slot.congr ⟨?_, ?_⟩ <;> rintro ⟨l, k, entry⟩
      · cases l with
        | sp => rw [spreader k] at entry; cases entry
        | cp => exact ⟨.cp, k, (only.cabEntry k).symm.trans entry⟩
      · cases l with
        | sp =>
          obtain ⟨p, attached, rfl⟩ := Option.map_eq_some_iff.mp entry
          exact absurd (by rw [attached]; exact Engine.profile_of_entry p k) other
        | cp => exact ⟨.cp, k, (only.cabEntry k).trans entry⟩
  · cases l with
    | sp => exact idle.fits y .sp detachTimer
    | cp => rw [only.cab]; exact (h.ports .cp).kept only.cabEntry (congrArg Tables.masterSlots only.tables)
  · exact iff_of_false (by simp [attached]) idle.state
  · rw [only.festoon, only.festoonTimer]; exact h.festoonTimer

end Sys2Proof.Machine
end

section
namespace Sys2Proof.Machine

/-- The engine of a part whose ports are both OFF and whose slots are all idle (R60, R86, R154). -/
structure Engine.Off (x : Engine) : Prop where
  ports : ∀ l, (x.port l).state = .off ∧ (x.port l).Idle ∧ (x.port l).detachTimer = none
  attached : x.attached = none
  slots : ∀ e, x.slots.get e = .idle
  search : x.searchTimer = none ∧ x.hail = .off

/-- R83: enabled IN slots have a miss limit within 1 to 15. -/
def Tables.MissLimits (t : Tables) : Prop := ∀ e, (t.masterSlots.get e).enabled = true → (t.masterSlots.get e).direction = .inbound →
  1 ≤ (t.masterSlots.get e).missLimit ∧ (t.masterSlots.get e).missLimit ≤ 15

variable {x : Engine}

theorem Engine.Off.fit (h : x.Off) (limits : x.tables.MissLimits) (festoonTimer : x.festoonTimer.isSome ↔ x.festoon = .detached) :
    x.Fit := by
  have state := fun l => (h.ports l).1
  have inactive : ∀ e, ¬x.Active e := by
    rintro e ⟨l, k, entry⟩
    cases l with
    | sp => simp [Engine.entry, h.attached] at entry
    | cp => simp [Engine.entry, state, PortState.hasCabSet] at entry
  refine ⟨fun _ => state, limits, fun e => h.slots e ▸ MasterRt.idle_fits (.inl (inactive e)), fun l => ?_, ?_, ?_, ?_,
    fun _ => h.search, festoonTimer⟩
  · obtain ⟨off, idle, timer⟩ := h.ports l
    exact idle.fits x l (by simp [timer, off])
  · simp [h.attached, state]
  · simp [h.attached]
  · simp [state]

/-- R154: in CONFIG both ports are OFF and all slots idle. -/
theorem Engine.Fit.off (h : x.Fit) (config : x.operating = .config) : x.Off := by
  have state := h.config config
  have idle : ∀ l, (x.port l).Idle := fun l => (h.ports l).idle (by simp [state])
  have attached : x.attached = none := by
    have := h.attachment
    simpa [state] using this
  refine ⟨fun l => ⟨state l, idle l, ?_⟩, attached, fun e => (h.slots e).idle (.inl ?_), h.search (by simp [state])⟩
  · have := (h.ports l).detachTimer
    simpa [state] using this
  · rintro ⟨l, k, entry⟩
    cases l with
    | sp => simp [Engine.entry, attached] at entry
    | cp => simp [Engine.entry, state, PortState.hasCabSet] at entry

/-- R85: the slots of a set that starts, and the others, whose sets stay as they are. -/
theorem Engine.Fit.started (h : x.Fit) {sel : MasterIx → Bool} {active : MasterIx → Prop}
    (new : ∀ e, sel e = true → ¬x.Active e ∧ active e) (old : ∀ e, ¬sel e = true → (active e ↔ x.Active e)) (e : MasterIx) :
    (if sel e then startedSlot (x.slotRec e) (x.slots.get e) else x.slots.get e).Fits (x.slotRec e) (active e) := by
  split
  · next selected =>
    obtain ⟨inactive, starts⟩ := new e selected
    rw [(h.slots e).idle (.inl inactive)]
    exact MasterRt.started_fits starts fun enabled direction => (h.limits e enabled direction).1
  · next other => exact (h.slots e).congr (old e other)

/-- R85, R110: the Spreader Port's search ends with an attachment. -/
def Engine.attach (x : Engine) (p : ProfileIx) (q : MasterPort) : Engine :=
  { x.setPort .sp q with
    attached := some p, searchTimer := none, hail := .off
    slots := x.slots.mapIdx fun e rt => if inProfile p e then startedSlot (x.slotRec e) rt else rt }

@[simp] theorem Engine.attach_cab (x : Engine) (p : ProfileIx) (q : MasterPort) : (x.attach p q).port .cp = x.port .cp :=
  x.setPort_port_of_ne (l := .sp) (m := .cp) (by decide) q

@[simp] theorem Engine.attach_spreader (x : Engine) (p : ProfileIx) (q : MasterPort) : (x.attach p q).port .sp = q :=
  x.setPort_port .sp q

theorem Engine.attach_cabEntry (x : Engine) (p : ProfileIx) (q : MasterPort) (k : SlotIx) :
    (x.attach p q).entry .cp k = x.entry .cp k := by
  simp only [Engine.entry, Engine.attach_cab]

theorem Engine.Fit.attach_slots (h : x.Fit) (searches : (x.port .sp).state = .search) (p : ProfileIx) (q : MasterPort) (e : MasterIx) :
    ((x.attach p q).slots.get e).Fits (x.slotRec e) ((x.attach p q).Active e) := by
  have detached : x.attached = none := by
    have := h.attachment
    simpa [searches] using this
  have cab := x.attach_cabEntry p q
  rw [Engine.attach, Tab.get_mapIdx]
  refine h.started (fun e selected => ⟨?_, ?_⟩) (fun e other => ⟨?_, ?_⟩) e
  · rintro ⟨l, k, entry⟩
    cases l with
    | sp => simp [Engine.entry, detached] at entry
    | cp =>
      simp only [Engine.entry, Option.ite_none_right_eq_some, Option.some.injEq] at entry
      obtain ⟨-, rfl⟩ := entry
      rw [Engine.not_profile_cab] at selected
      cases selected
  · have profile : e.val / 16 = p.val := beq_iff_eq.mp selected
    refine ⟨.sp, ⟨e.val % 16, Nat.mod_lt _ (by decide)⟩, congrArg some (Fin.ext ?_)⟩
    simp only [profileEntry]
    omega
  · rintro ⟨l, k, entry⟩
    cases l with
    | sp =>
      obtain rfl : profileEntry p k = e := Option.some.inj entry
      exact absurd (Engine.profile_of_entry p k) other
    | cp => exact ⟨.cp, k, (cab k).symm.trans entry⟩
  · rintro ⟨l, k, entry⟩
    cases l with
    | sp => simp [Engine.entry, detached] at entry
    | cp => exact ⟨.cp, k, (cab k).trans entry⟩

theorem Engine.Fit.attach (h : x.Fit) (searches : (x.port .sp).state = .search) {p : ProfileIx}
    (enabled : (x.tables.profiles.get p).enabled = true) {q : MasterPort} (cycling : q.state = .cycling)
    (fits : (x.attach p q).PortFits .sp q) : (x.attach p q).Fit := by
  refine ⟨fun config => ?_, h.limits, h.attach_slots searches p q, fun l => ?_, ?_, fun r attached => ?_, ?_, ?_, h.festoonTimer⟩
  · exact PortState.noConfusion (searches.symm.trans (h.config config .sp))
  · cases l with
    | sp => rw [Engine.attach_spreader]; exact fits
    | cp => rw [Engine.attach_cab]; exact (h.ports .cp).kept (x.attach_cabEntry p q) rfl
  · rw [Engine.attach_spreader]
    exact iff_of_true rfl cycling
  · obtain rfl : p = r := Option.some.inj attached
    exact enabled
  · rw [Engine.attach_cab]; exact h.cab
  · exact fun _ => ⟨rfl, rfl⟩

/-- R85, R86: the Cab Port starts with its set. -/
def Engine.startCab (x : Engine) (q : MasterPort) : Engine :=
  { x.setPort .cp q with slots := x.slots.mapIdx fun e rt => if isCabEntry e then startedSlot (x.slotRec e) rt else rt }

@[simp] theorem Engine.startCab_cab (x : Engine) (q : MasterPort) : (x.startCab q).port .cp = q := x.setPort_port .cp q

@[simp] theorem Engine.startCab_spreader (x : Engine) (q : MasterPort) : (x.startCab q).port .sp = x.port .sp :=
  x.setPort_port_of_ne (l := .cp) (m := .sp) (by decide) q

theorem Engine.startCab_entry (x : Engine) (q : MasterPort) (k : SlotIx) : (x.startCab q).entry .sp k = x.entry .sp k := rfl

theorem Engine.Fit.startCab_slots (h : x.Fit) (off : (x.port .cp).state = .off) {q : MasterPort} (cycling : q.state = .cycling)
    (e : MasterIx) : ((x.startCab q).slots.get e).Fits (x.slotRec e) ((x.startCab q).Active e) := by
  rw [Engine.startCab, Tab.get_mapIdx]
  refine h.started (fun e selected => ⟨?_, ?_⟩) (fun e other => ⟨?_, ?_⟩) e
  · rintro ⟨l, k, entry⟩
    cases l with
    | sp =>
      obtain ⟨p, -, rfl⟩ := Option.map_eq_some_iff.mp entry
      rw [profileEntry_not_cab] at selected
      cases selected
    | cp => simp [Engine.entry, off, PortState.hasCabSet] at entry
  · have cab : 64 ≤ e.val := of_decide_eq_true selected
    refine ⟨.cp, ⟨e.val - 64, by omega⟩, ?_⟩
    have state : (x.setPort .cp q).port .cp = q := x.setPort_port .cp q
    simp only [Engine.entry, state, cycling, PortState.hasCabSet, if_true, Option.some.injEq]
    exact Fin.ext (Nat.add_sub_cancel' cab)
  · rintro ⟨l, k, entry⟩
    cases l with
    | sp => exact ⟨.sp, k, entry⟩
    | cp =>
      simp only [Engine.entry, Option.ite_none_right_eq_some, Option.some.injEq] at entry
      obtain ⟨-, rfl⟩ := entry
      exact absurd (cabEntry_isCab k) other
  · rintro ⟨l, k, entry⟩
    cases l with
    | sp => exact ⟨.sp, k, entry⟩
    | cp => simp [Engine.entry, off, PortState.hasCabSet] at entry

theorem Engine.Fit.startCab (h : x.Fit) (run : x.operating = .run) (off : (x.port .cp).state = .off) {q : MasterPort}
    (cycling : q.state = .cycling) (fits : (x.startCab q).PortFits .cp q) : (x.startCab q).Fit := by
  refine ⟨fun config => Operating.noConfusion (run.symm.trans config), h.limits, h.startCab_slots off cycling, fun l => ?_, ?_, h.profile,
    ?_, ?_, h.festoonTimer⟩
  · cases l with
    | sp => rw [Engine.startCab_spreader]; exact (h.ports .sp).kept (x.startCab_entry q) rfl
    | cp => rw [Engine.startCab_cab]; exact fits
  · rw [Engine.startCab_spreader]; exact h.attachment
  · rw [Engine.startCab_cab, cycling]; decide
  · rw [Engine.startCab_spreader]; exact h.search

/-- R153: the reset input stops every turn and the HAIL. -/
theorem Engine.Fit.holdReset (h : x.Fit) :
    Engine.Fit { x with port := fun l => { x.port l with turn := .none }, hail := .off } where
  config := h.config
  limits := h.limits
  slots e := (h.slots e).congr (Engine.active_congr (fun l _ => by cases l <;> rfl) e)
  ports l := by
    obtain ⟨idle, detachTimer, -, queue⟩ := h.ports l
    refine ⟨fun state => ?_, detachTimer, Engine.turnFits_none _ l, queue.kept (fun _ => by cases l <;> rfl) rfl⟩
    obtain ⟨-, cycleTimer, cycle, -, queue⟩ := idle state
    exact ⟨state, cycleTimer, cycle, rfl, queue⟩
  attachment := h.attachment
  profile := h.profile
  cab := h.cab
  search state := ⟨(h.search state).1, rfl⟩
  festoonTimer := h.festoonTimer

end Sys2Proof.Machine
end

section
namespace Sys2Proof.Machine

/-! ### What keeps the engine -/

section
variable (s : State)

@[simp] theorem State.engine_setLink (l : Line) (k : Link) : (s.setLink l k).engine = s.engine := by
  refine Engine.ext ?_ ?_ (funext fun m => ?_) ?_ ?_ ?_ ?_ ?_ ?_
  case refine_3 => cases l <;> cases m <;> rfl
  all_goals cases l <;> rfl
@[simp] theorem State.engine_setPhase (l : Line) (p : LinePhase) : (s.setPhase l p).engine = s.engine := s.engine_setLink l _
@[simp] theorem State.engine_send (l : Line) (f : Frame) : (s.send l f).engine = s.engine := s.engine_setPhase l _
@[simp] theorem State.engine_judged (l : Line) : (s.judged l).engine = s.engine := s.engine_setLink l _
@[simp] theorem State.engine_onFeed (d : Feed) (f : FeedRt → FeedRt) : (s.onFeed d f).engine = s.engine := rfl
@[simp] theorem State.engine_buildL2 : s.buildL2.engine = s.engine := rfl

@[simp] theorem State.engine_judged_scoreGood (l : Line) : ((s.judged l).scoreGood l).engine = s.engine := by
  rw [(State.goodScored l s).frame]
  exact s.engine_setLink l _

@[simp] theorem State.engine_judged_scoreError (l : Line) : ((s.judged l).scoreError l).engine = s.engine := by
  rw [(State.errorScored l s).frame]
  exact s.engine_setLink l _

/-- A Festoon Port that keeps its state and its detach timer. -/
theorem State.engine_onFp {f : FestoonPort → FestoonPort} (state : (f s.fp).state = s.fp.state)
    (timer : (f s.fp).detachTimer = s.fp.detachTimer) : (s.onFp f).engine = s.engine :=
  Engine.ext rfl rfl rfl rfl rfl rfl rfl state timer

end

/-- What only reports keeps the engine. -/
theorem State.Reported.engine {s t : State} (h : s.Reported t) : t.engine = s.engine := by
  obtain ⟨events, ovf, watchLast, rfl, -⟩ := h
  rfl

@[simp] theorem State.engine_raise (s : State) (e : Event) : (s.raise e).engine = s.engine := (s.reported_raise e).engine

@[simp] theorem State.engine_raiseAll (s : State) (es : List Event) : (s.raiseAll es).engine = s.engine :=
  (s.reported_raiseAll es).engine

@[simp] theorem Work.engine_close (w : Work) : w.close.engine = w.st.engine := w.reported_close.engine

@[simp] theorem Work.engine_stale (w : Work) (sigs : List SigIx) : (w.stale sigs).st.engine = w.st.engine := rfl

@[simp] theorem Work.engine_applyRun (w : Work) (run : List Placement) (bytes : List Byte) :
    (w.applyRun run bytes).st.engine = w.st.engine := by rw [w.applyRun_frame]; rfl

/-- A port replaced: its link is no part of the engine. -/
theorem State.engine_setPort (s : State) (l : MasterLine) (p : MasterPort) : (s.setPort l p).engine = s.engine.setPort l p.unlinked := by
  refine Engine.ext ?_ ?_ (funext fun m => ?_) ?_ ?_ ?_ ?_ ?_ ?_
  case refine_3 => cases l <;> cases m <;> rfl
  all_goals cases l <;> rfl

/-- The runtime of the slots replaced. -/
theorem State.engine_setSlots (s : State) (rt : Tab MasterRt 80) :
    State.engine { s with masterRt := rt } = { s.engine with slots := rt } :=
  Engine.ext rfl rfl (funext fun l => by cases l <;> rfl) rfl rfl rfl rfl rfl rfl

/-! ### A port that is CYCLING (R87 to R98) -/

/-- R87: a visit that is a turn is of an enabled slot of the set, in its direction. -/
theorem State.turnFits_of_visit {s : State} (slots : ∀ e, (s.masterRt.get e).Fits (s.slotRec e) (s.engine.Active e)) {l : MasterLine}
    {k : SlotIx} {kind : TurnKind} (visit : s.visit l k = some kind) : s.engine.TurnFits l (.due kind k) := by
  obtain ⟨e, entry, status, directed⟩ := State.visit_eq_some.mp visit
  obtain ⟨-, enabled⟩ := (slots e).of_status status
  obtain ⟨rfl, direction⟩ | ⟨rfl, direction, -⟩ := directed
  · refine ⟨fun j turn => ?_, nofun⟩
    obtain rfl : k = j := Option.some.inj turn
    exact State.engine_hasSlot.mpr ⟨e, entry, enabled, direction⟩
  · refine ⟨nofun, fun j turn => ?_⟩
    obtain rfl : k = j := Option.some.inj turn
    exact State.engine_hasSlot.mpr ⟨e, entry, enabled, direction⟩

/-- A CYCLING port of a part whose engine is fit. -/
structure State.Cycles (l : MasterLine) (s : State) : Prop where
  fit : s.engine.Fit
  cycling : (s.port l).state = .cycling

section
variable {s : State} {l : MasterLine}

theorem State.Cycles.turn (h : s.Cycles l) : s.engine.TurnFits l (s.port l).turn := (h.fit.ports l).turn

theorem State.Cycles.queue (h : s.Cycles l) : s.engine.QueueFits l (s.port l).queue := (h.fit.ports l).queue

/-- A CYCLING port takes a turn and a queue on slots of its set; its cycle and its cycle timer are free. -/
theorem State.Cycles.setPort (h : s.Cycles l) {p : MasterPort} (state : p.state = (s.port l).state)
    (timer : p.detachTimer = (s.port l).detachTimer) (turn : s.engine.TurnFits l p.turn) (queue : s.engine.QueueFits l p.queue) :
    (s.setPort l p).Cycles l := by
  have cycling : p.state = .cycling := state.trans h.cycling
  have fits : s.engine.PortFits l p.unlinked := by
    refine ⟨fun idle => absurd cycling idle, ?_, turn, queue⟩
    have := (h.fit.ports l).detachTimer
    exact (iff_of_eq (congrArg (fun t : Option Nat => t.isSome = true) timer)).trans
      (this.trans (iff_of_eq (congrArg (· = PortState.detached) state.symm)))
  refine ⟨?_, (congrArg MasterPort.state (s.setPort_port l p)).trans cycling⟩
  rw [s.engine_setPort]
  exact h.fit.setPort fits (.inl state)

theorem State.Cycles.setCycle (h : s.Cycles l) (cycle timer : Option Nat) (overdue overrun : Bool) :
    (s.setPort l { s.port l with cycle := cycle, cycleTimer := timer, overdue := overdue, overrun := overrun }).Cycles l :=
  h.setPort rfl rfl h.turn h.queue

theorem State.Cycles.openCycle (h : s.Cycles l) : (s.openCycle l).Cycles l := h.setCycle _ _ _ _

theorem State.Cycles.endCycle (h : s.Cycles l) : (s.endCycle l).Cycles l := by
  unfold State.endCycle
  split
  · exact h.openCycle
  · exact h.setCycle _ _ _ _

theorem State.Cycles.settleCycle (h : s.Cycles l) (chained : Bool) : (s.settleCycle l chained).Cycles l := by
  unfold State.settleCycle
  split
  · exact h
  · split
    · exact h.endCycle
    · exact h

theorem State.Cycles.takeVisit (h : s.Cycles l) : (s.takeVisit l).Cycles l := by
  unfold State.takeVisit
  split
  · exact h
  · split
    · next visit => exact h.setPort rfl rfl (State.turnFits_of_visit h.fit.slots (State.nextVisit_eq_some.mp visit).2.1) h.queue
    · exact h.setCycle _ _ _ _

theorem State.Cycles.startCycle (h : s.Cycles l) : (s.startCycle l).Cycles l := by
  unfold State.startCycle
  simp only
  split
  · exact h.openCycle.takeVisit
  · exact h.openCycle

theorem State.Cycles.unchained (h : s.Cycles l) : (s.unchained l).Cycles l :=
  h.setPort rfl rfl (Engine.turnFits_none _ l) (Engine.queueFits_nil _ l)

/-- R98: a turn boundary serves an entry of the queue, which is an OUT slot of the set, or the cycle's next visit. -/
theorem State.Cycles.atBoundary (h : s.Cycles l) : (s.atBoundary l).Cycles l := by
  cases front : (s.port l).queue.dropWhile (fun j => !s.servable l j) with
  | nil =>
    rw [State.atBoundary_of_nil front]
    exact (h.unchained.settleCycle false).takeVisit
  | cons k rest =>
    have part : (k :: rest).Sublist (s.port l).queue := front ▸ List.dropWhile_sublist _
    obtain ⟨cycle, timer, overdue, overrun, settled⟩ := s.settleCycle_eq l true
    rw [State.atBoundary_of_cons front, settled, State.onPort_eq, State.setPort_port, State.setPort_setPort]
    refine h.setPort rfl rfl ⟨nofun, fun j turn => ?_⟩ (h.queue.sublist ((List.sublist_cons_self k rest).trans part))
    obtain rfl : k = j := Option.some.inj turn
    exact h.queue.outbound k (part.subset List.mem_cons_self)

theorem State.Cycles.cycleExpiry (h : s.Cycles l) : (s.cycleExpiry l).engine.Fit := by
  cases cycle : (s.port l).cycle with
  | none =>
    rw [State.cycleExpiry_of_none cycle]
    exact h.startCycle.fit
  | some place =>
    rw [State.cycleExpiry_of_some cycle]
    split
    · exact (h.setCycle _ _ _ _).fit
    · rw [State.engine_raise]
      exact (h.setCycle _ _ _ _).fit

/-! #### Turns -/

/-- A turn that goes on stays on its slot. -/
theorem Engine.TurnFits.advance {x : Engine} {t u : Turn} (h : x.TurnFits l t) (inbound : u.inSlot = t.inSlot)
    (outbound : u.outSlot = t.outSlot) : x.TurnFits l u :=
  ⟨fun k turn => h.inbound k (inbound.symm.trans turn), fun k turn => h.outbound k (outbound.symm.trans turn)⟩

theorem State.Cycles.advance (h : s.Cycles l) {t : Turn} (k : Link) {q : List SlotIx} (inbound : t.inSlot = (s.port l).turn.inSlot)
    (outbound : t.outSlot = (s.port l).turn.outSlot) (part : q.Sublist (s.port l).queue) :
    (s.setPort l { s.port l with turn := t, link := k, queue := q }).Cycles l :=
  h.setPort rfl rfl (h.turn.advance inbound outbound) (h.queue.sublist part)

/-- The turn goes on, and a slot takes a runtime that fits its record. -/
theorem State.Cycles.advanceSlot (h : s.Cycles l) {t : Turn} (k : Link) (inbound : t.inSlot = (s.port l).turn.inSlot)
    (outbound : t.outSlot = (s.port l).turn.outSlot) {e : MasterIx} {rt : MasterRt} (fits : rt.Fits (s.slotRec e) (s.engine.Active e)) :
    State.Cycles l { s.setPort l { s.port l with turn := t, link := k } with masterRt := s.masterRt.set e rt } := by
  have slot : State.Cycles l { s with masterRt := s.masterRt.set e rt } :=
    ⟨(s.engine_setSlots _).symm ▸ h.fit.setSlot fits, by cases l <;> exact h.cycling⟩
  have port : State.port { s with masterRt := s.masterRt.set e rt } l = s.port l := by cases l <;> rfl
  have order : { s.setPort l { s.port l with turn := t, link := k } with masterRt := s.masterRt.set e rt } =
      State.setPort { s with masterRt := s.masterRt.set e rt } l { s.port l with turn := t, link := k } := by cases l <;> rfl
  rw [order, ← port]
  exact slot.advance k (by rw [port, inbound]) (by rw [port, outbound]) (List.Sublist.refl _)

theorem State.Cycles.outSlot (h : s.Cycles l) {k : SlotIx} (turn : (s.port l).turn.outSlot = some k) :
    ∃ e, s.activeEntry l k = some e ∧ (s.slotRec e).enabled = true ∧ (s.slotRec e).direction = .outbound :=
  State.engine_hasSlot.mp (h.turn.outbound k turn)

theorem State.Cycles.inSlot (h : s.Cycles l) {k : SlotIx} (turn : (s.port l).turn.inSlot = some k) :
    ∃ e, s.activeEntry l k = some e ∧ (s.slotRec e).enabled = true ∧ (s.slotRec e).direction = .inbound :=
  State.engine_hasSlot.mp (h.turn.inbound k turn)

theorem State.Cycles.slot (h : s.Cycles l) {k : SlotIx} {e : MasterIx} (entry : s.activeEntry l k = some e) :
    s.engine.Active e ∧ (s.masterRt.get e).Fits (s.slotRec e) (s.engine.Active e) :=
  ⟨State.engine_active.mpr ⟨l, k, entry⟩, h.fit.slots e⟩

end

/-- A port with a turn or a queued slot is CYCLING. -/
theorem State.cycles_of_turn {s : State} (h : s.engine.Fit) {l : MasterLine} (turn : (s.port l).turn ≠ .none) : s.Cycles l := by
  refine ⟨h, ?_⟩
  by_contra idle
  exact turn ((h.ports l).idle idle).turn

theorem State.engine_fit_beginOut {s : State} (h : s.engine.Fit) {l : MasterLine} (due : (s.dueOut l).isSome = true) :
    (s.beginOut l).engine.Fit := by
  obtain ⟨⟨kind, k, e⟩, due⟩ := Option.isSome_iff_exists.mp due
  obtain ⟨cycling, out, turn, -⟩ := State.dueOut_eq_some.mp due
  rw [State.beginOut_eq due]
  refine (State.Cycles.advance ⟨h, cycling⟩ _ ?_ ?_ ?_).fit
  · rw [turn]; cases kind <;> first | rfl | exact absurd rfl out
  · rw [turn]; cases kind <;> first | rfl | exact absurd rfl out
  · split
    · exact List.filter_sublist
    · exact List.Sublist.refl _

theorem State.engine_fit_endOut {s : State} (h : s.engine.Fit) {l : MasterLine} (sending : (s.sendingOut l).isSome = true) :
    (s.endOut l).engine.Fit := by
  obtain ⟨k, sending⟩ := Option.isSome_iff_exists.mp sending
  obtain ⟨cycling, turn⟩ := State.sendingOut_eq_some.mp sending
  have cycles : s.Cycles l := ⟨h, cycling⟩
  obtain ⟨e, entry, enabled, direction⟩ := cycles.outSlot (k := k) (by rw [turn]; rfl)
  obtain ⟨on, fits⟩ := cycles.slot entry
  rw [State.endOut_eq sending entry, disarmed_eq]
  refine (cycles.advanceSlot _ (by rw [turn]; rfl) (by rw [turn]; rfl) (fits.setArmed on enabled direction fun armed => ?_)).fit
  split at armed
  · cases armed
  · exact (fits.armed armed).2

theorem State.engine_fit_beginIn {s : State} (h : s.engine.Fit) {l : MasterLine} (due : (s.dueIn l).isSome = true) :
    (s.beginIn l).engine.Fit := by
  obtain ⟨⟨k, e⟩, due⟩ := Option.isSome_iff_exists.mp due
  obtain ⟨cycling, turn, -⟩ := State.dueIn_eq_some.mp due
  rw [State.beginIn_eq due]
  exact (State.Cycles.advance ⟨h, cycling⟩ _ (by rw [turn]; rfl) (by rw [turn]; rfl) (List.Sublist.refl _)).fit

theorem State.engine_fit_openWindow {s : State} (h : s.engine.Fit) {l : MasterLine} (polling : (s.polling l).isSome = true) :
    (s.openWindow l).engine.Fit := by
  obtain ⟨k, polling⟩ := Option.isSome_iff_exists.mp polling
  obtain ⟨cycling, turn⟩ := State.polling_eq_some.mp polling
  rw [State.openWindow_eq polling]
  exact (State.Cycles.advance ⟨h, cycling⟩ _ (by rw [turn]; rfl) (by rw [turn]; rfl) (List.Sublist.refl _)).fit

/-! ### Chain requests and responses (R91, R97) -/

/-- R97: a request is taken for an OUT slot of the set that is not DISABLED, or leaves no record. -/
theorem State.requestTurn_inv (s : State) (l : MasterLine) (k : SlotIx) : s.requestTurn l k = s ∨
    ((s.port l).state = .cycling ∧ k ∉ (s.port l).queue ∧ (∃ e, s.activeEntry l k = some e ∧
        (s.masterRt.get e).status ≠ .disabled ∧ (s.slotRec e).direction = .outbound) ∧
      s.requestTurn l k = s.setPort l { s.port l with queue := (s.port l).queue ++ [k] }) := by
  obtain same | ⟨new, cycling, taken⟩ := s.requestTurn_cases l k
  · exact .inl same
  · cases entry : s.activeEntry l k with
    | none => exact .inl (State.requestTurn_of_dropped (.inr (.inl entry)))
    | some e =>
      by_cases disabled : (s.masterRt.get e).status = .disabled
      · exact .inl (State.requestTurn_of_dropped (.inr (.inr ⟨e, entry, .inl disabled⟩)))
      · cases direction : (s.slotRec e).direction with
        | inbound => exact .inl (by simp [State.requestTurn, cycling, entry, direction])
        | outbound => exact .inr ⟨cycling, new, ⟨e, rfl, disabled, direction⟩, taken⟩

theorem State.engine_fit_requestTurn {s : State} (h : s.engine.Fit) (l : MasterLine) (k : SlotIx) : (s.requestTurn l k).engine.Fit := by
  obtain same | ⟨cycling, new, ⟨e, entry, status, direction⟩, taken⟩ := s.requestTurn_inv l k
  · rwa [same]
  · have cycles : s.Cycles l := ⟨h, cycling⟩
    obtain ⟨-, enabled⟩ := (h.slots e).of_status status
    have distinct : ((s.port l).queue ++ [k]).Nodup :=
      List.nodup_append_comm.mp (List.nodup_cons.mpr ⟨new, cycles.queue.distinct⟩ : ([k] ++ (s.port l).queue).Nodup)
    rw [taken]
    refine (cycles.setPort (p := { s.port l with queue := (s.port l).queue ++ [k] }) rfl rfl cycles.turn
      ⟨distinct, fun j member => ?_⟩).fit
    obtain member | member := List.mem_append.mp member
    · exact cycles.queue.outbound j member
    · obtain rfl := List.mem_singleton.mp member
      exact State.engine_hasSlot.mpr ⟨e, entry, enabled, direction⟩

theorem State.engine_fit_requestIf {s : State} (h : s.engine.Fit) (t : Option ChainTarget) : (State.requestIf t s).engine.Fit := by
  cases t with
  | none => exact h
  | some c =>
    cases c with
    | sp k => exact State.engine_fit_requestTurn h .sp k
    | cp k => exact State.engine_fit_requestTurn h .cp k
    | l => exact h

/-- R91: an accepted response makes its slot LIVE, and its chain request is taken or not. -/
theorem State.engine_fit_response {s : State} (h : s.engine.Fit) {l : MasterLine} {f : Frame}
    (response : (s.responseFor l f).isSome = true) : (s.work.response l f).st.engine.Fit := by
  obtain ⟨⟨k, e⟩, response⟩ := Option.isSome_iff_exists.mp response
  obtain ⟨turn, entry, -⟩ := State.responseFor_eq_some.mp response
  rw [Work.response_eq response]
  obtain ⟨m, hm⟩ : ∃ m, m = (s.judged (masterLine l)).scoreGood (masterLine l) := ⟨_, rfl⟩
  have engine : m.engine = s.engine := hm ▸ s.engine_judged_scoreGood (masterLine l)
  have judged : s.Judged l m := .of_frame (hm ▸ State.goodScored (masterLine l) s).frame
  rw [← hm, Work.accept_eq]
  have cycles : m.Cycles l := State.cycles_of_turn (engine ▸ h) (by rw [judged.turn, turn]; exact nofun)
  obtain ⟨e', entry', enabled, direction⟩ := cycles.inSlot (k := k) (by rw [judged.turn, turn]; rfl)
  obtain rfl : e = e' := Option.some.inj ((entry.symm.trans (judged.sets k).symm).trans entry')
  obtain ⟨on, fits⟩ := cycles.slot entry'
  have accepted : ∀ image, (m.accepted l k e image).engine.Fit := fun image =>
    (cycles.advanceSlot (t := .inGap k) (m.port l).link (by rw [judged.turn, turn]; rfl) (by rw [judged.turn, turn]; rfl)
      (fits.accepted on enabled direction m.timestamp)).fit
  refine State.engine_fit_requestIf ?_ _
  split
  · rw [State.engine_raise]; exact accepted _
  · exact accepted _

end Sys2Proof.Machine
end

section
namespace Sys2Proof.Machine

/-! ### Slots whose set ends, and slots that fall (R79, R85) -/

theorem Engine.Fit.slots_of_dropped {x : Engine} {p : ProfileIx} (attached : x.attached = some p) {rt : Tab MasterRt 80}
    {rest : MasterIx → MasterRt} (slots : ∀ e, rt.get e = if e.val / 16 = p.val then ⟨.disabled, 0, false, 0⟩ else rest e)
    (fits : ∀ e, (rest e).Fits (x.slotRec e) (x.Active e)) (e : MasterIx) :
    if x.attached.any (inProfile · e) then rt.get e = .idle else (rt.get e).Fits (x.slotRec e) (x.Active e) := by
  rw [slots e, attached]
  by_cases dropped : e.val / 16 = p.val
  · simp [inProfile, dropped, MasterRt.idle]
  · simp [inProfile, dropped, fits e]

theorem Engine.Fit.slots_of_none {x : Engine} (attached : x.attached = none) {rt : Tab MasterRt 80}
    (fits : ∀ e, (rt.get e).Fits (x.slotRec e) (x.Active e)) (e : MasterIx) :
    if x.attached.any (inProfile · e) then rt.get e = .idle else (rt.get e).Fits (x.slotRec e) (x.Active e) := by
  rw [attached]
  exact fits e

theorem Engine.Fit.attached_none {x : Engine} (h : x.Fit) (state : (x.port .sp).state ≠ .cycling) : x.attached = none := by
  have := h.attachment
  simpa [state] using this

theorem State.mem_activeSet {s : State} {l : MasterLine} {ke : SlotIx × MasterIx} (member : ke ∈ s.activeSet l) :
    s.activeEntry l ke.1 = some ke.2 := by
  obtain ⟨k, -, found⟩ := List.mem_filterMap.mp member
  obtain ⟨e, entry, rfl⟩ := Option.map_eq_some_iff.mp found
  exact entry

/-- R79: the slots of a set at its port's detachment. -/
theorem State.fallen_fits {s : State} (h : s.engine.Fit) (l : MasterLine) (e : MasterIx) :
    (if (s.fallen l).any (fun ke => ke.2 == e) then { s.masterRt.get e with status := .lost, misses := (s.slotRec e).missLimit }
      else s.masterRt.get e).Fits (s.slotRec e) (s.engine.Active e) := by
  split
  · next fell =>
    obtain ⟨ke, member, same⟩ := List.any_eq_true.mp fell
    obtain rfl : ke.2 = e := beq_iff_eq.mp same
    obtain ⟨member, falls⟩ := List.mem_filter.mp member
    simp only [State.falls, Bool.and_eq_true, beq_iff_eq] at falls
    exact MasterRt.Fits.lost (h.slots ke.2) (State.engine_active.mpr ⟨l, ke.1, State.mem_activeSet member⟩) falls.1.1 falls.1.2
  · exact h.slots e

theorem MasterPort.detached_idle (p : MasterPort) : p.detached.unlinked.Idle :=
  ⟨(nofun : PortState.detached ≠ .cycling), rfl, rfl, rfl, rfl⟩

/-! ### Misses, detachments and holds (R79, R92, R113 to R115, R149) -/

theorem State.engine_fit_missed {s : State} {l : MasterLine} (h : s.Cycles l) {k : SlotIx} {e : MasterIx}
    (turn : (s.port l).turn = .window k) (entry : s.activeEntry l k = some e) : (s.missed l k e).engine.Fit := by
  obtain ⟨e', entry', enabled, direction⟩ := h.inSlot (k := k) (by rw [turn]; rfl)
  obtain rfl : e = e' := Option.some.inj (entry.symm.trans entry')
  obtain ⟨on, fits⟩ := h.slot entry
  exact (h.advanceSlot (t := .missed k) (s.port l).link (by rw [turn]; rfl) (by rw [turn]; rfl)
    (fits.missed on enabled direction (h.fit.limits e enabled direction).1)).fit

/-- R92, R113: a miss, in each of its three courses. -/
theorem MissTaken.fit {s t : State} {l : MasterLine} {k : SlotIx} {e : MasterIx} (h : s.engine.Fit) (turn : (s.port l).turn = .window k)
    (entry : s.activeEntry l k = some e) (miss : MissTaken l k e s t) : t.engine.Fit := by
  have cycles : s.Cycles l := State.cycles_of_turn h (by rw [turn]; exact nofun)
  have missed := State.engine_fit_missed cycles turn entry
  by_cases stays : (missedSlot (s.slotRec e).missLimit (s.masterRt.get e)).status ≠ .lost ∨ (s.masterRt.get e).status = .lost
  · rw [miss.counted stays]
    exact missed
  obtain ⟨lost, fresh⟩ := not_or.mp stays
  rw [not_not] at lost
  by_cases remains : l = .cp ∨ s.attached = none ∨ (∃ k' e', s.activeEntry .sp k' = some e' ∧ e' ≠ e ∧
      (s.slotRec e').enabled = true ∧ (s.slotRec e').direction = .inbound ∧ (s.masterRt.get e').status ≠ .lost)
  · rw [miss.lost lost fresh remains, Work.engine_close, Work.engine_stale, State.work_st, State.engine_raise]
    exact missed
  · rw [not_or, not_or] at remains
    obtain ⟨spreader, attached, none⟩ := remains
    obtain rfl : l = .sp := by cases l <;> first | rfl | exact absurd rfl spreader
    obtain ⟨p, attached⟩ := Option.ne_none_iff_exists'.mp attached
    obtain ⟨slots, -, ends⟩ := miss.ended lost fresh rfl p attached fun k' e' entry other enabled direction => by
      by_contra alive
      exact none ⟨k', e', entry, other, enabled, direction, alive⟩
    have run : s.engine.operating ≠ .config := fun config =>
      PortState.noConfusion ((h.config config .sp).symm.trans cycles.cycling)
    rw [ends.reported.engine]
    exact h.leave ⟨rfl, rfl, rfl, rfl, rfl⟩ rfl ⟨nofun, rfl, rfl, rfl, rfl⟩ ⟨nofun, nofun⟩ (absurd · run) (absurd rfl)
      (Engine.Fit.slots_of_dropped attached slots h.slots)

/-- R79: the Cab Port in DETACHED, its enabled IN slots LOST. -/
theorem Work.Detaches.fit_cab {s : State} {w : Work} (h : s.engine.Fit) (set : s.cp.state.hasCabSet = true)
    (detaches : w.Detaches .cp none s) : w.st.engine.Fit := by
  have slots : ∀ e, (w.st.masterRt.get e).Fits (s.slotRec e) (s.engine.Active e) := fun e => by
    rw [detaches.slots e]
    exact State.fallen_fits h .cp e
  have engine : w.st.engine = Engine.setPort { s.engine with slots := w.st.masterRt } .cp (s.port .cp).detached.unlinked := by
    conv_lhs => rw [detaches.frame]
    refine Engine.ext rfl rfl (funext fun l => ?_) rfl rfl rfl rfl rfl rfl
    cases l <;> rfl
  rw [engine]
  exact (h.setSlots slots).setPort ((MasterPort.detached_idle _).fits _ .cp (iff_of_true rfl rfl)) (.inr ⟨rfl, rfl, set⟩)

/-- R79, R114: the Spreader Port in DETACHED, its attachment dropped. -/
theorem Work.Detaches.fit_spreader {s : State} {w : Work} (h : s.engine.Fit) (on : s.sp.state ≠ .off)
    (detaches : w.Detaches .sp s.attached s) : w.st.engine.Fit := by
  have slots : ∀ e, if s.engine.attached.any (inProfile · e) then w.st.masterRt.get e = .idle
      else (w.st.masterRt.get e).Fits (s.slotRec e) (s.engine.Active e) := fun e => by
    rw [detaches.slots e]
    have fallen := State.fallen_fits h .sp e
    cases attached : s.attached with
    | none => simpa [State.engine, attached] using fallen
    | some p =>
      by_cases dropped : e.val / 16 = p.val
      · simp [State.engine, attached, inProfile, dropped, MasterRt.idle]
      · simpa [State.engine, attached, inProfile, dropped] using fallen
  rw [detaches.frame]
  exact h.leave ⟨rfl, rfl, rfl, rfl, rfl⟩ rfl (s.port .sp).detached_idle (iff_of_true rfl rfl)
    (fun config => absurd (h.config config .sp) on) (fun _ => ⟨rfl, rfl⟩) slots

theorem PortHeld.fit_cab {s t : State} (h : s.engine.Fit) (set : s.cp.state.hasCabSet = true) (held : PortHeld .cp s t) :
    t.engine.Fit := by
  have engine : t.engine = s.engine.setPort .cp (t.port .cp).unlinked := by
    rw [held.ends.reported.engine]
    refine Engine.ext rfl rfl (funext fun l => ?_) rfl rfl rfl (held.quiet (.inl rfl)) rfl rfl
    cases l <;> rfl
  have idle : (t.port .cp).unlinked.Idle := by
    rw [held.port]
    exact ⟨(nofun : PortState.held ≠ .cycling), rfl, rfl, rfl, rfl⟩
  have state : (t.port .cp).unlinked.state = .held := by rw [held.port]; rfl
  have timer : (t.port .cp).unlinked.detachTimer = none := by rw [held.port]; rfl
  rw [engine]
  exact h.setPort (idle.fits _ .cp (by rw [state, timer]; exact ⟨nofun, nofun⟩)) (.inr ⟨rfl, by rw [state]; rfl, set⟩)

theorem PortHeld.fit_spreader {s t : State} (h : s.engine.Fit) (on : s.sp.state ≠ .off) (held : PortHeld .sp s t) :
    t.engine.Fit := by
  have slots : ∀ e, if s.engine.attached.any (inProfile · e) then t.masterRt.get e = .idle
      else (t.masterRt.get e).Fits (s.slotRec e) (s.engine.Active e) := by
    cases attached : s.attached with
    | none => exact Engine.Fit.slots_of_none attached fun e => held.quiet (.inr attached) ▸ h.slots e
    | some p => exact Engine.Fit.slots_of_dropped attached (held.detached p rfl attached) h.slots
  rw [held.ends.reported.engine, held.port]
  exact h.leave ⟨rfl, rfl, rfl, rfl, rfl⟩ rfl ⟨nofun, rfl, rfl, rfl, rfl⟩ ⟨nofun, nofun⟩
    (fun config => absurd (h.config config .sp) on) (fun _ => ⟨rfl, rfl⟩) slots

/-! ### Search, attachment and resumption (R86, R107 to R111) -/

theorem Engine.Fit.setSearch {x : Engine} (h : x.Fit) (searches : (x.port .sp).state = .search) (timer : Option Nat) (hail : HailPhase) :
    Engine.Fit { x with searchTimer := timer, hail := hail } :=
  h.of_ports rfl rfl rfl rfl rfl h.slots (absurd searches) h.festoonTimer

/-- R107, R108: a HAIL begins or ends: the phase of the line, the search timer and the progress of the search change. -/
theorem State.engine_fit_hailing {s : State} (h : s.engine.Fit) (searches : s.sp.state = .search) (phase : LinePhase)
    (timer : Option Nat) (hail : HailPhase) : State.engine { s.setPhase .sp phase with searchTimer := timer, hail := hail } |>.Fit :=
  Engine.Fit.setSearch (x := (s.setPhase .sp phase).engine) (by rwa [s.engine_setPhase]) searches timer hail

/-- R107: the Spreader Port searches again after a hold or a detachment, which left it without an attachment. -/
theorem State.engine_fit_searching {s : State} (h : s.engine.Fit) (state : s.sp.state = .held ∨ s.sp.state = .detached) :
    s.searching.engine.Fit := by
  have attached : s.engine.attached = none := h.attached_none fun cycling => by
    have cycling : s.sp.state = .cycling := cycling
    simp [cycling] at state
  refine h.leave ⟨rfl, rfl, rfl, rfl, rfl⟩ attached ⟨nofun, rfl, rfl, rfl, rfl⟩ ⟨nofun, nofun⟩ (fun config => ?_) (absurd rfl)
    (Engine.Fit.slots_of_none attached h.slots)
  have off : s.sp.state = .off := h.config config .sp
  simp [off] at state

/-- R86: a port that enters CYCLING is the only change, and its first turn fits once its slots do. -/
theorem State.enterCycling_engine (s : State) (l : MasterLine) : ∃ q, (s.enterCycling l).engine = s.engine.setPort l q ∧
    q.state = .cycling ∧
    ((∀ e, (s.masterRt.get e).Fits (s.slotRec e) ((s.engine.setPort l q).Active e)) → (s.engine.setPort l q).PortFits l q) := by
  obtain ⟨cycle, turn, entered, visits, idle⟩ := s.enterCycling_eq l
  refine ⟨_, by rw [entered]; exact s.engine_setPort l _, rfl, fun slots =>
    ⟨absurd rfl, ?_, ?_, Engine.queueFits_nil _ l⟩⟩
  · exact iff_of_false Bool.false_ne_true (nofun : PortState.cycling ≠ .detached)
  rw [← s.engine_setPort, ← entered] at slots ⊢
  have runtime : (s.enterCycling l).masterRt = s.masterRt := by rw [entered]; exact s.setPort_masterRt l _
  have record : ∀ e, (s.enterCycling l).slotRec e = s.slotRec e := fun e => by
    rw [entered, State.slotRec, State.setPort_tables]; rfl
  show (s.enterCycling l).engine.TurnFits l turn
  cases visit : (s.enterCycling l).nextVisit l 0 with
  | none =>
    rw [(idle visit).1]
    exact Engine.turnFits_none _ l
  | some first =>
    obtain ⟨k, kind⟩ := first
    rw [(visits k kind visit).1]
    refine State.turnFits_of_visit (fun e => ?_) (State.nextVisit_eq_some.mp visit).2.1
    rw [runtime, record]
    exact slots e

/-- R86: the Cab Port returns to CYCLING. -/
theorem State.engine_fit_resumeCab {s : State} (h : s.engine.Fit) (state : s.cp.state = .held ∨ s.cp.state = .detached) :
    s.resumeCab.engine.Fit := by
  have set : s.cp.state.hasCabSet = true := by obtain state | state := state <;> rw [state] <;> rfl
  have slots : ∀ e, ((s.onSlots isCabEntry resumedSlot).masterRt.get e).Fits (s.slotRec e) (s.engine.Active e) := fun e => by
    rw [State.onSlots_masterRt]
    split
    · next cab =>
      have number : 64 ≤ e.val := of_decide_eq_true cab
      have on : s.engine.Active e := by
        refine ⟨.cp, ⟨e.val - 64, by omega⟩, (if_pos set).trans (congrArg some (Fin.ext (Nat.add_sub_cancel' number)))⟩
      exact (h.slots e).resumed on fun enabled direction => (h.limits e enabled direction).1
    · exact h.slots e
  have base : (s.onSlots isCabEntry resumedSlot).engine.Fit := h.setSlots slots
  obtain ⟨q, entered, cycling, fits⟩ := (s.onSlots isCabEntry resumedSlot).enterCycling_engine .cp
  have entry : ∀ l k, ((s.onSlots isCabEntry resumedSlot).engine.setPort .cp q).entry l k =
      (s.onSlots isCabEntry resumedSlot).engine.entry l k := Engine.setPort_entry fun _ => by rw [cycling]; exact set.symm
  have port := fits fun e => (slots e).congr (Engine.active_congr entry e)
  rw [State.resumeCab, entered]
  exact base.setPort (port.kept (fun k => (entry .cp k).symm) rfl) (.inr ⟨rfl, by rw [cycling]; rfl, set⟩)

/-- R110: an attachment of an enabled profile. -/
theorem State.engine_fit_attach {s : State} (h : s.engine.Fit) (searches : s.sp.state = .search) {p : ProfileIx}
    (enabled : (s.tables.profiles.get p).enabled = true) (code : BitVec 16) (serial : BitVec 32) :
    (s.attach p code serial).engine.Fit := by
  obtain ⟨b, hb⟩ : ∃ b, b = ((State.onSlots { s with attached := some p, serials := s.serials.set p serial } (inProfile p)
    startedSlot).raise (.spreaderAttached p code)).stopSearch := ⟨_, rfl⟩
  have engine : b.engine = { s.engine with
      attached := some p, searchTimer := none, hail := .off
      slots := s.masterRt.mapIdx fun e rt => if inProfile p e then startedSlot (s.slotRec e) rt else rt } := by
    rw [hb, State.raise_frame]
    refine Engine.ext rfl rfl (funext fun l => ?_) rfl rfl rfl rfl rfl rfl
    cases l <;> rfl
  have attach : s.attach p code serial = b.enterCycling .sp := by rw [hb]; rfl
  obtain ⟨q, entered, cycling, fits⟩ := b.enterCycling_engine .sp
  have after : b.engine.setPort .sp q = s.engine.attach p q := by rw [engine]; rfl
  have record : ∀ e, b.slotRec e = s.slotRec e := fun e => congrArg (fun x : Engine => x.slotRec e) engine
  have runtime : b.masterRt = (s.engine.attach p q).slots := congrArg Engine.slots engine
  rw [after] at entered fits
  rw [attach, entered]
  refine h.attach searches enabled cycling (fits fun e => ?_)
  rw [record, runtime]
  exact h.attach_slots searches p q e

theorem State.matchProfile_enabled {s : State} {code : BitVec 16} {p : ProfileIx} (found : s.matchProfile code = some p) :
    (s.tables.profiles.get p).enabled = true := by
  have matched := List.find?_some found
  exact (Bool.and_eq_true_iff.mp matched).1

theorem State.engine_fit_takeReply {s : State} (h : s.engine.Fit) (searches : s.sp.state = .search) (payload : List Byte) :
    (s.takeReply payload).engine.Fit := by
  unfold State.takeReply
  split
  · next found => exact State.engine_fit_attach h searches (State.matchProfile_enabled found) _ _
  · have waits := h.setSearch searches s.searchTimer .waiting
    unfold State.unknownReply
    split
    · exact waits
    · rw [State.raise_frame]
      exact waits

end Sys2Proof.Machine
end

section
namespace Sys2Proof.Machine

/-! ### Events of the master lines -/

/-- R90, R108: a window that ended during a reception is a miss, or closes the search window. -/
theorem State.engine_fit_windowOver {s : State} (h : s.engine.Fit) (l : MasterLine) (ended : Bool) :
    (s.work.windowOver l ended).st.engine.Fit := by
  cases ended with
  | false => exact h
  | true =>
    rw [← Work.engine_close]
    by_cases window : ∃ k, (s.port l).turn = .window k
    · obtain ⟨k, turn⟩ := window
      obtain ⟨e, entry, -⟩ := (State.cycles_of_turn h (by rw [turn]; exact nofun)).inSlot (k := k) (by rw [turn]; rfl)
      exact (State.windowOver_of_window turn entry).fit h turn entry
    · rw [State.windowOver_of_no_window fun k turn => window ⟨k, turn⟩]
      split
      · next hails =>
        have searches : (s.engine.port .sp).state = .search := by
          by_contra other
          exact HailPhase.noConfusion (hails.2.symm.trans (h.search other).2)
        exact h.setSearch searches s.searchTimer .waiting
      · exact h

theorem State.receives_state {s : State} {l : MasterLine} (receives : s.masterReceives l = true) :
    (s.port l).state = .cycling ∨ (l = .sp ∧ (s.port l).state = .search) := by
  have scores : s.scores (masterLine l) = true := (Bool.and_eq_true_iff.mp receives).1
  cases l with
  | sp =>
    show s.sp.state = .cycling ∨ _ ∧ s.sp.state = .search
    cases state : s.sp.state <;> simp_all [State.scores, masterLine]
  | cp =>
    show s.cp.state = .cycling ∨ _
    cases state : s.cp.state <;> simp_all [State.scores, masterLine]

theorem State.engine_fit_masterError {s : State} (h : s.engine.Fit) {l : MasterLine} (receives : s.masterReceives l = true)
    (ended : Bool) : (s.work.masterError l ended).st.engine.Fit := by
  by_cases overflow : 248 ≤ (s.port l).link.score + 8
  · have state := State.receives_state receives
    rw [Work.masterError_of_overflow receives overflow]
    cases l with
    | cp =>
      have cycling : s.cp.state = .cycling := state.resolve_right nofun
      exact (State.slotsLost_detaches receives).fit_cab h (by rw [cycling]; rfl)
    | sp =>
      have on : s.sp.state ≠ .off := by
        obtain cycling | ⟨-, search⟩ := state
        · exact fun off => PortState.noConfusion (cycling.symm.trans off)
        · exact fun off => PortState.noConfusion (search.symm.trans off)
      exact (State.attachment_detaches receives).fit_spreader h on
  · rw [Work.masterError_of_below (by omega)]
    exact State.engine_fit_windowOver (by rwa [s.engine_judged_scoreError]) l ended

theorem State.engine_fit_masterStray {s : State} (h : s.engine.Fit) (l : MasterLine) (ended : Bool) :
    (s.work.masterStray l ended).st.engine.Fit :=
  State.engine_fit_windowOver (s := (s.judged (masterLine l)).scoreGood (masterLine l)) (by rwa [s.engine_judged_scoreGood]) l ended

theorem State.engine_fit_windowExpiry {s : State} (h : s.engine.Fit) {l : MasterLine} (waiting : (s.waitingFor l).isSome = true) :
    (s.work.windowExpiry l).st.engine.Fit := by
  obtain ⟨k, waiting⟩ := Option.isSome_iff_exists.mp waiting
  obtain ⟨cycling, turn⟩ := State.waitingFor_eq_some.mp waiting
  obtain ⟨e, entry, -⟩ := State.Cycles.inSlot (k := k) ⟨h, cycling⟩ (by rw [turn]; rfl)
  rw [Work.windowExpiry_eq waiting, ← Work.engine_close]
  exact (State.miss_taken entry).fit h turn entry

theorem State.engine_fit_hold {s : State} (h : s.engine.Fit) {l : MasterLine} (on : (s.port l).state ≠ .off) :
    (s.work.hold l).st.engine.Fit := by
  rw [← Work.engine_close]
  cases l with
  | sp => exact (State.hold_held .sp s).fit_spreader h on
  | cp =>
    refine (State.hold_held .cp s).fit_cab h ?_
    have search : s.cp.state ≠ .search := h.cab
    have on : s.cp.state ≠ .off := on
    cases state : s.cp.state <;> simp_all [PortState.hasCabSet]

theorem State.engine_fit_leaveDetached {s : State} (h : s.engine.Fit) {l : MasterLine} (detached : (s.port l).state = .detached) :
    (s.work.leaveDetached l).st.engine.Fit := by
  unfold Work.leaveDetached
  split
  · exact State.engine_fit_hold h (by rw [detached]; exact nofun)
  · cases l with
    | sp => exact State.engine_fit_searching (s := s) h (.inr detached)
    | cp => exact State.engine_fit_resumeCab (s := s) h (.inr detached)

theorem State.engine_fit_takeHold {s : State} (h : s.engine.Fit) (l : MasterLine) : (s.work.takeHold l).st.engine.Fit := by
  have taken : (s.takeOrder l).engine.Fit := h
  have held : ∀ {m}, ((s.takeOrder l).port m).state ≠ .off → ((s.takeOrder l).work.hold m).st.engine.Fit := State.engine_fit_hold taken
  unfold Work.takeHold
  simp only
  split
  · next cycling => exact held (by rw [show ((s.takeOrder l).port l).state = _ from cycling]; exact nofun)
  · next search =>
    cases l with
    | sp => exact held (by rw [show ((s.takeOrder .sp).port .sp).state = _ from search]; exact nofun)
    | cp => exact taken
  all_goals exact taken

theorem State.engine_fit_takeRelease {s : State} (h : s.engine.Fit) (l : MasterLine) : (s.work.takeRelease l).st.engine.Fit := by
  have taken : (s.takeOrder l).engine.Fit := h
  unfold Work.takeRelease
  simp only
  split
  · next held =>
    cases l with
    | sp => exact State.engine_fit_searching (s := ((s.work.on (State.takeOrder .sp)).clearArea .spreader).st) taken (.inl held)
    | cp => exact State.engine_fit_resumeCab (s := s.takeOrder .cp) taken (.inl held)
  all_goals exact taken

/-! ### The festoon line, the gates and the terminals -/

theorem Engine.Fit.setFestoon {x : Engine} (h : x.Fit) {state : FestoonState} {timer : Option Nat}
    (fits : timer.isSome ↔ state = .detached) : Engine.Fit { x with festoon := state, festoonTimer := timer } :=
  h.of_ports rfl rfl rfl rfl rfl h.slots h.search fits

theorem State.engine_fit_detachFestoon {s : State} (h : s.engine.Fit) : s.detachFestoon.engine.Fit := by
  rw [State.detachFestoon, State.engine_raise]
  exact h.setFestoon (iff_of_true rfl rfl)

theorem State.engine_fit_relisten {s : State} (h : s.engine.Fit) : s.relisten.engine.Fit :=
  h.setFestoon (iff_of_false Bool.false_ne_true nofun)

@[simp] theorem State.engine_beginAnswer (s : State) : s.beginAnswer.engine = s.engine := by
  unfold State.beginAnswer
  split
  · rfl
  · rw [State.engine_onFp _ rfl rfl, State.engine_send]

@[simp] theorem State.engine_beginReply (s : State) : s.beginReply.engine = s.engine := by
  unfold State.beginReply
  split
  · rfl
  · rw [State.engine_onFp _ rfl rfl, State.engine_setPhase]

@[simp] theorem Work.engine_staleExpiry (w : Work) (k : SlotIx) : (w.staleExpiry k).st.engine = w.st.engine := by
  rw [Work.staleExpiry, Work.engine_stale, Work.on_st, State.engine_raise, State.engine_onFp _ rfl rfl]

@[simp] theorem State.engine_takeReading (s : State) (d : Feed) : (s.takeReading d).engine = s.engine := by
  unfold State.takeReading
  split
  · rfl
  · simp only
    split
    · unfold State.stepFeed
      simp only
      split <;> simp
    · rfl

@[simp] theorem State.engine_handOver (s : State) (d : Feed) (outcome : Nat → Option ReadingOutcome)
    (readings : Tab (BitVec 12) 16) : (s.handOver d outcome readings).engine = s.engine := by
  unfold State.handOver
  split <;> rfl

@[simp] theorem Work.engine_applyL0 (w : Work) (outcome : Nat → Option ReadingOutcome) (payload : List Byte) :
    (w.applyL0 outcome payload).st.engine = w.st.engine := by
  refine foldl_keeps (fun w : Work => w.st.engine) (fun w p => ?_) _ w
  unfold Work.applyL0One
  simp only
  split
  · rfl
  split
  · rfl
  · rw [(w.applyOne_frame _ _ p).1]; rfl

theorem State.engine_scanChannels (s : State) (readings : Tab (BitVec 12) 16) : (s.scanChannels readings).st.engine = s.engine :=
  (Work.engine_applyL0 _ _ _).trans (State.engine_raiseAll _ _)

@[simp] theorem State.engine_completeScan (s : State) (samples : BitVec 16) (readings : Tab (BitVec 12) 16) :
    (s.work.completeScan samples readings).st.engine = s.engine := by
  unfold Work.completeScan
  simp only [Work.on_st, State.engine_handOver, State.engine_buildL2, Work.engine_applyRun]
  exact s.engine_scanChannels readings

/-- R59: a sweep leaves the ports alone but for its chain requests. -/
theorem State.engine_fit_sweep {s : State} (h : s.engine.Fit) : s.work.sweep.st.engine.Fit := by
  have outputs : ∀ w : Work, w.writeOutputs.st.engine = w.st.engine :=
    foldl_keeps (fun w : Work => w.st.engine) (fun w g => by simp only; split <;> rfl) _
  have chains : ∀ (before : Tab GateRt 32) (s : State), s.engine.Fit → (s.sweepChains before).engine.Fit := by
    intro before s
    unfold State.sweepChains
    induction indices 32 generalizing s with
    | nil => exact id
    | cons g gs ih =>
      intro h
      rw [List.foldl_cons]
      refine ih _ ?_
      split
      · exact State.engine_fit_requestIf h _
      · exact h
  refine chains s.gateRt _ ?_
  rw [Work.on_st, State.engine_raiseAll, outputs]
  exact h

theorem State.engine_fit_acceptFestoon {s : State} (h : s.engine.Fit) (k : SlotIx) (payload : List Byte) :
    (s.work.acceptFestoon k payload).st.engine.Fit := by
  unfold Work.acceptFestoon
  simp only
  refine State.engine_fit_requestIf ?_ _
  split <;> simpa [State.engine_onFp] using h

end Sys2Proof.Machine
end

section
namespace Sys2Proof.Machine

/-! ### CONFIG, RUN and the warm restart (R86, R106, R153, R160, R161, R163) -/

theorem MasterPort.stopped_idle (p : MasterPort) : p.stopped.unlinked.Idle :=
  ⟨(nofun : PortState.off ≠ .cycling), rfl, rfl, rfl, rfl⟩

theorem State.engine_fit_powerOn (strap : BitVec 5) (q : List Instr) : (State.powerOn strap q).engine.Fit := by
  refine Engine.Off.fit ⟨fun l => ?_, rfl, fun e => Tab.get_fill _ e, rfl, rfl⟩ (fun e enabled => ?_)
    (iff_of_false Bool.false_ne_true (nofun : FestoonState.listening ≠ .detached))
  · cases l <;> exact ⟨rfl, ⟨(nofun : PortState.off ≠ .cycling), rfl, rfl, rfl, rfl⟩, rfl⟩
  · have disabled : ((State.powerOn strap q).engine.tables.masterSlots.get e).enabled = false :=
      congrArg MasterSlot.enabled (Tab.get_fill _ e)
    exact Bool.noConfusion (disabled.symm.trans enabled)

theorem State.engine_fit_toConfig {s : State} (limits : s.tables.MissLimits)
    (festoonTimer : s.fp.detachTimer.isSome ↔ s.fp.state = .detached) : s.toConfig.engine.Fit := by
  rw [State.toConfig_eq]
  refine Engine.Off.fit ⟨fun l => ?_, rfl, fun e => Tab.get_fill _ e, rfl, rfl⟩ limits festoonTimer
  cases l
  · exact ⟨rfl, s.sp.stopped_idle, rfl⟩
  · exact ⟨rfl, s.cp.stopped_idle, rfl⟩

/-- R86, R106: the ports start from OFF: the Cab Port with its set, the Spreader Port in SEARCH. -/
theorem State.engine_fit_startCab {s : State} (h : s.engine.Fit) (run : s.operating = .run) (off : s.cp.state = .off) :
    s.startCab.engine.Fit := by
  unfold State.startCab
  split
  · obtain ⟨q, entered, cycling, fits⟩ := (s.onSlots isCabEntry startedSlot).enterCycling_engine .cp
    have after : (s.onSlots isCabEntry startedSlot).engine.setPort .cp q = s.engine.startCab q := rfl
    rw [after] at entered fits
    rw [entered]
    exact h.startCab run off cycling (fits (h.startCab_slots off cycling))
  · exact h

theorem State.startCab_keeps (s : State) : s.startCab.attached = s.attached ∧ s.startCab.operating = s.operating := by
  unfold State.startCab
  split
  · obtain ⟨cycle, turn, entered, -⟩ := (s.onSlots isCabEntry startedSlot).enterCycling_eq .cp
    rw [entered]
    exact ⟨rfl, rfl⟩
  · exact ⟨rfl, rfl⟩

theorem State.engine_fit_startSpreader {s : State} (h : s.engine.Fit) (run : s.operating = .run) (attached : s.attached = none) :
    s.startSpreader.engine.Fit := by
  unfold State.startSpreader
  split
  · exact h.leave ⟨rfl, rfl, rfl, rfl, rfl⟩ attached ⟨nofun, rfl, rfl, rfl, rfl⟩ ⟨nofun, nofun⟩
      (fun config => Operating.noConfusion (run.symm.trans config)) (absurd rfl) (Engine.Fit.slots_of_none attached h.slots)
  · exact h

theorem State.engine_fit_toRun {s : State} (limits : s.tables.MissLimits)
    (festoonTimer : s.fp.detachTimer.isSome ↔ s.fp.state = .detached) : s.toRun.engine.Fit := by
  have base : s.runBase.engine.Fit := by
    refine Engine.Off.fit ⟨fun l => ?_, rfl, fun e => Tab.get_fill _ e, rfl, rfl⟩ limits festoonTimer
    cases l
    · exact ⟨rfl, s.sp.stopped_idle, rfl⟩
    · exact ⟨rfl, s.cp.stopped_idle, rfl⟩
  obtain ⟨attached, operating⟩ := s.runBase.startCab_keeps
  rw [State.toRun_eq]
  exact State.engine_fit_startSpreader (State.engine_fit_startCab base rfl rfl) operating attached

theorem State.engine_fit_warmRestart {s : State} (h : s.engine.Fit) : s.warmRestart.engine.Fit := by
  have config : s.restartCounters.toConfig.engine.Fit := State.engine_fit_toConfig (s := s.restartCounters) h.limits h.festoonTimer
  unfold State.warmRestart
  simp only
  split
  · exact State.engine_fit_toRun config.limits config.festoonTimer
  · exact config

theorem State.engine_fit_beginReception {s : State} (h : s.engine.Fit) : s.beginReception.engine.Fit := by
  by_cases rested : s.fp.link.phase = .rested
  · cases pending : s.fp.restartPending with
    | false =>
      rw [State.beginReception_of_rested rested pending]
      exact h
    | true =>
      rw [State.beginReception_of_restart rested pending, State.engine_setPhase]
      exact State.engine_fit_warmRestart h
  · rwa [State.beginReception_of_not_rested rested]

theorem State.engine_fit_festoonGood {s : State} (h : s.engine.Fit) : s.festoonGood.engine.Fit := by
  rw [State.festoonGood, State.engine_judged_scoreGood]
  exact State.engine_fit_beginReception h

theorem State.engine_fit_festoonError {s : State} (h : s.engine.Fit) : s.festoonError.engine.Fit := by
  have begun := State.engine_fit_beginReception h
  unfold State.festoonError
  simp only
  split
  · exact State.engine_fit_detachFestoon (by rwa [State.engine_judged])
  · rwa [State.engine_judged_scoreError]

/-! ### Tables (R83, R155, R156) -/

theorem masterOf?_limits {bs : List Byte} {a : MasterSlot × Bool} (h : masterOf? bs = some a)
    (direction : a.1.direction = .inbound) : 1 ≤ a.1.missLimit ∧ a.1.missLimit ≤ 15 := by
  unfold masterOf? at h
  split at h
  · cases h
  · simp only [Option.bind_eq_bind, Option.bind_eq_some_iff, Option.pure_def, Option.some.injEq] at h
    obtain ⟨_, -, d, -, _, -, _, -, _, -, _, -, _, -, _, -, _, -, rfl⟩ := h
    obtain rfl : d = .inbound := direction
    exact clampNat_mem (by decide) _

/-- Only a write of table SLOT changes the records of the master slots. -/
theorem Tables.write_masterSlots {t t' : Tables} {table : TableId} {i : Nat} {bs : List Byte} {clamped : Bool}
    (h : t.write table i bs = some (t', clamped)) : t'.masterSlots = t.masterSlots ∨
      ∃ e a, masterOf? bs = some a ∧ t'.masterSlots = t.masterSlots.set e a.1 := by
  cases table with
  | slot =>
    simp only [Tables.write] at h
    split at h
    · obtain ⟨e, a, record, rfl⟩ := written_entry h
      exact .inr ⟨e, a, record, rfl⟩
    · obtain ⟨k, a, -, rfl⟩ := written_entry h
      exact .inl rfl
  | gate =>
    simp only [Tables.write] at h
    split at h
    · simp only [Option.bind_eq_bind, Option.bind_eq_some_iff, Option.pure_def, Option.some.injEq, Prod.mk.injEq] at h
      obtain ⟨_, -, rfl, -⟩ := h
      exact .inl rfl
    · obtain ⟨_, _, -, rfl⟩ := written_entry h
      exact .inl rfl
  | trolley =>
    simp only [Tables.write] at h
    split at h
    · obtain ⟨_, _, -, rfl⟩ := written_entry h
      exact .inl rfl
    split at h
    · obtain ⟨_, _, -, rfl⟩ := written_entry h
      exact .inl rfl
    split at h
    case h_5 => cases h
    all_goals
      simp only [Option.map_eq_some_iff, Prod.mk.injEq] at h
      obtain ⟨_, -, rfl, -⟩ := h
      exact .inl rfl
  | area | line | profile | placement | conversion | term | feed | watch =>
    obtain ⟨_, _, -, rfl⟩ := written_entry h
    exact .inl rfl

theorem Tables.MissLimits.write {t t' : Tables} (ht : t.MissLimits) {table : TableId} {i : Nat} {bs : List Byte} {clamped : Bool}
    (h : t.write table i bs = some (t', clamped)) : t'.MissLimits := by
  obtain same | ⟨k, a, record, stored⟩ := Tables.write_masterSlots h
  · rw [Tables.MissLimits, same]
    exact ht
  · intro e
    rw [stored, Tab.get_set]
    split
    · exact fun _ => masterOf?_limits record
    · exact ht e

/-- R155: a table is written in CONFIG only, where the ports are OFF, or it is the WATCH table, which no port reads. -/
theorem State.engine_fit_acceptWrite {s : State} (h : s.engine.Fit) {table : TableId} (hw : s.operating = .config ∨ table = .watch)
    {i : Nat} {bs : List Byte} {t : Tables} {clamped : Bool} (written : s.tables.write table i bs = some (t, clamped)) :
    (s.acceptWrite table i t).engine.Fit := by
  have accepted : (s.acceptWrite table i t).engine = { s.engine with tables := t } := by
    unfold State.acceptWrite
    split
    · split <;> rfl
    all_goals rfl
  rw [accepted]
  have limits : s.tables.MissLimits := h.limits
  obtain config | rfl := hw
  · obtain ⟨ports, attached, slots, search⟩ := h.off config
    exact Engine.Off.fit ⟨ports, attached, slots, search⟩ (limits.write written) h.festoonTimer
  · obtain ⟨w, rfl⟩ := Tables.write_watch written
    exact h.of_ports rfl rfl rfl rfl rfl h.slots h.search h.festoonTimer

end Sys2Proof.Machine
end

section
namespace Sys2Proof.Machine

/-! ### Management commands -/

/-- R167: a read of a table changes nothing but the draws of the free value (log 14). -/
theorem Work.readTable_frame (req : List Byte) (w : Work) :
    (w.readTable req).work.st = { w.st with freeDraws := (w.readTable req).work.st.freeDraws } := by
  unfold Work.readTable
  split
  · rfl
  · next table _ =>
    simp only
    split
    · rfl
    · cases table <;> rfl

theorem Work.readSignals_work (req : List Byte) (w : Work) : (w.readSignals req).work = w := by
  unfold Work.readSignals
  simp only
  split <;> rfl

theorem Work.writeSignal_frame (index : Nat) (value : Int) (w : Work) :
    (w.writeSignal index value).work.st = { w.st with image := (w.writeSignal index value).work.st.image } := by
  unfold Work.writeSignal
  split
  · rfl
  · split <;> rfl

theorem Work.force_frame (index : Nat) (value : Int) (w : Work) :
    (w.force index value).work.st = { w.st with image := (w.force index value).work.st.image } := by
  unfold Work.force
  split
  · rfl
  split
  · rfl
  split
  · rfl
  split <;> rfl

theorem Work.release_frame (index : Nat) (w : Work) :
    (w.release index).work.st = { w.st with image := (w.release index).work.st.image } := by
  unfold Work.release
  split
  · rfl
  · simp only; split <;> rfl

/-- A management command keeps the engine fit. -/
def KeepsEngine (command : Work → Served) : Prop := ∀ w : Work, w.st.engine.Fit → (command w).work.st.engine.Fit

theorem keepsEngine_of_same {command : Work → Served} (same : ∀ w, (command w).work.st.engine = w.st.engine) : KeepsEngine command :=
  fun w h => same w ▸ h

theorem Work.enterConfig_keepsEngine : KeepsEngine Work.enterConfig := fun w h => by
  unfold Work.enterConfig
  split
  · exact h
  · exact State.engine_fit_toConfig h.limits h.festoonTimer

theorem Work.enterRun_keepsEngine : KeepsEngine Work.enterRun := fun w h => by
  unfold Work.enterRun
  split
  · exact h
  · split
    · exact h
    · exact State.engine_fit_toRun (s := { w.st with validated := true }) h.limits h.festoonTimer

theorem Work.writeTable_keepsEngine (req : List Byte) : KeepsEngine (Work.writeTable req) := fun w h => by
  unfold Work.writeTable
  split
  · exact h
  · next table _ =>
    split
    · exact h
    · next allowed =>
      have hw : w.st.operating = .config ∨ table = .watch := by
        cases ho : w.st.operating <;> simp_all
      simp only
      split
      · exact h
      · next written => exact State.engine_fit_acceptWrite h hw written

/-- R170: SEND_ONCE arms an enabled ONCE slot of an active set. -/
theorem Work.sendOnce_keepsEngine (line slot : Nat) : KeepsEngine (Work.sendOnce line slot) := fun w h => by
  unfold Work.sendOnce
  split
  · exact h
  split
  · next l k _ _ =>
    split
    · exact h
    · next e entry =>
      simp only
      split
      · next once =>
        simp only [Bool.and_eq_true, beq_iff_eq] at once
        obtain ⟨⟨enabled, direction⟩, once⟩ := once
        exact h.setSlot ((h.slots e).setArmed (State.engine_active.mpr ⟨l, k, entry⟩) enabled direction fun _ => once)
      · exact h
  · exact h

theorem State.engine_fit_serve {s : State} (h : s.engine.Fit) {command : Work → Served} (hc : KeepsEngine command) (tag : BitVec 6)
    (code : Nat) : (s.serve tag code command).engine.Fit :=
  (Work.engine_close _).symm ▸ hc s.festoonGood.work (State.engine_fit_festoonGood h)

/-! ### Every command -/

/-- What holds of a state and of the state that a possible event leaves holds of the state that the command answers. -/
theorem State.keeps_of_occurs {P : State → Prop} {s t : State} (h : P s) {possible : Bool} {next : State}
    (hn : possible = true → P next) (ht : s.occurs possible next = .next t) : P t := by
  obtain rfl := Host.Outcome.next.inj ht
  split
  · next taken => exact hn (Bool.and_eq_true_iff.mp taken).2
  · exact h

theorem State.engine_fit_of_occurs {s t : State} (h : s.engine.Fit) {possible : Bool} {next : State}
    (hn : possible = true → next.engine.Fit) (ht : s.occurs possible next = .next t) : t.engine.Fit :=
  State.keeps_of_occurs (P := fun s => s.engine.Fit) h hn ht

theorem State.engine_fit_of_manage {s t : State} (h : s.engine.Fit) {tag : BitVec 6} {code need : Nat} {req : List Byte}
    {command : Work → Served} (hc : KeepsEngine command) (ht : s.manage tag code need req command = .next t) : t.engine.Fit := by
  refine State.engine_fit_of_occurs h (fun _ => State.engine_fit_serve h (fun w fit => ?_) tag code) ht
  unfold withRequest
  split
  · exact fit
  · exact hc w fit

theorem State.engine_fit_of_closed {s t : State} (h : s.engine.Fit) {possible : Bool} {w : Work}
    (hw : possible = true → w.st.engine.Fit) (ht : s.occurs possible w.close = .next t) : t.engine.Fit :=
  State.engine_fit_of_occurs h (fun occurs => w.engine_close.symm ▸ hw occurs) ht

/-- Every command keeps the engine fit. -/
theorem exec_keeps_engine {c : Instr} {s t : State} (h : s.engine.Fit) (ht : exec c s = .next t) : t.engine.Fit := by
  cases c with
  | powerOn strap | resetInputRelease strap =>
    obtain rfl := Host.Outcome.next.inj ht
    exact State.engine_fit_powerOn _ _
  | resetInputAssert =>
    obtain rfl := Host.Outcome.next.inj ht
    have held : s.holdReset.engine = { s.engine with port := fun l => { s.engine.port l with turn := .none }, hail := .off } := by
      refine Engine.ext rfl rfl (funext fun l => ?_) rfl rfl rfl rfl rfl rfl
      cases l <;> rfl
    exact held ▸ h.holdReset
  | warmRestart =>
    refine State.engine_fit_of_occurs h (fun _ => ?_) ht
    rw [State.engine_setPhase]
    exact State.engine_fit_warmRestart h
  | status tag req | restart tag req | readEvents tag req | releaseAll tag req =>
    exact State.engine_fit_of_manage h (keepsEngine_of_same fun _ => rfl) ht
  | enterConfig tag req => exact State.engine_fit_of_manage h Work.enterConfig_keepsEngine ht
  | enterRun tag req => exact State.engine_fit_of_manage h Work.enterRun_keepsEngine ht
  | readTable tag req => exact State.engine_fit_of_manage h (keepsEngine_of_same fun w => by rw [Work.readTable_frame]; rfl) ht
  | writeTable tag req => exact State.engine_fit_of_manage h (Work.writeTable_keepsEngine req) ht
  | readSignals tag req => exact State.engine_fit_of_manage h (keepsEngine_of_same fun w => by rw [Work.readSignals_work]) ht
  | writeSignal tag req => exact State.engine_fit_of_manage h (keepsEngine_of_same fun w => by rw [Work.writeSignal_frame]; rfl) ht
  | force tag req => exact State.engine_fit_of_manage h (keepsEngine_of_same fun w => by rw [Work.force_frame]; rfl) ht
  | release tag req => exact State.engine_fit_of_manage h (keepsEngine_of_same fun w => by rw [Work.release_frame]; rfl) ht
  | sendOnce tag req => exact State.engine_fit_of_manage h (Work.sendOnce_keepsEngine _ _) ht
  | unknownCommand tag payload =>
    exact State.engine_fit_of_occurs h (fun _ => State.engine_fit_serve h (keepsEngine_of_same fun _ => rfl) tag _) ht
  | frameError line chars ended =>
    cases line with
    | sp | cp =>
      exact State.engine_fit_of_closed h (fun occurs => State.engine_fit_masterError h (Bool.and_eq_true_iff.mp occurs).2 ended) ht
    | fp => exact State.engine_fit_of_occurs h (fun _ => State.engine_fit_festoonError h) ht
  | strayFrame line f ended =>
    cases line with
    | sp => exact State.engine_fit_of_closed h (fun _ => State.engine_fit_masterStray h .sp ended) ht
    | cp => exact State.engine_fit_of_closed h (fun _ => State.engine_fit_masterStray h .cp ended) ht
    | fp => exact State.engine_fit_of_occurs h (fun _ => State.engine_fit_festoonGood h) ht
  | masterResponseAccepted line f =>
    exact State.engine_fit_of_closed h (fun occurs => State.engine_fit_response h (Bool.and_eq_true_iff.mp occurs).2) ht
  | hailReplyTaken f =>
    refine State.engine_fit_of_occurs h (fun occurs => ?_) ht
    have valid := (Bool.and_eq_true_iff.mp occurs).2
    have searches : s.sp.state = .search := by simp_all [State.validReply]
    refine State.engine_fit_takeReply (by rwa [State.engine_judged_scoreGood]) ?_ f.payload
    have port : (((s.judged .sp).scoreGood .sp).engine.port .sp).state = (s.engine.port .sp).state := by
      rw [State.engine_judged_scoreGood]
    exact port.trans searches
  | festoonDataAccepted f =>
    refine State.engine_fit_of_occurs h (fun _ => ?_) ht
    unfold State.takeData
    split
    · exact h
    · rw [Work.engine_close]
      exact State.engine_fit_acceptFestoon (State.engine_fit_festoonGood h) _ _
  | festoonPoll f =>
    refine State.engine_fit_of_occurs h (fun _ => ?_) ht
    unfold State.takePoll
    split
    · exact h
    · exact State.engine_fit_festoonGood h
  | festoonReceptionStart => exact State.engine_fit_of_occurs h (fun _ => State.engine_fit_beginReception h) ht
  | festoonDataAnswer => exact State.engine_fit_of_occurs h (fun _ => by rwa [State.engine_beginAnswer]) ht
  | mgmtReplyStart => exact State.engine_fit_of_occurs h (fun _ => by rwa [State.engine_beginReply]) ht
  | cycleTimerExpiry line =>
    refine State.engine_fit_of_occurs h (fun occurs => ?_) ht
    exact State.Cycles.cycleExpiry ⟨h, beq_iff_eq.mp (Bool.and_eq_true_iff.mp occurs).1⟩
  | outTurnStart line => exact State.engine_fit_of_occurs h (State.engine_fit_beginOut h) ht
  | outFrameEnd line => exact State.engine_fit_of_occurs h (State.engine_fit_endOut h) ht
  | turnBoundary line =>
    refine State.engine_fit_of_occurs h (fun occurs => ?_) ht
    exact (State.Cycles.atBoundary ⟨h, beq_iff_eq.mp (Bool.and_eq_true_iff.mp occurs).1⟩).fit
  | inTurn line => exact State.engine_fit_of_occurs h (State.engine_fit_beginIn h) ht
  | pollEnd line => exact State.engine_fit_of_occurs h (State.engine_fit_openWindow h) ht
  | responseWindowExpiry line => exact State.engine_fit_of_closed h (State.engine_fit_windowExpiry h) ht
  | firstHail =>
    refine State.engine_fit_of_occurs h (fun occurs => State.engine_fit_hailing h ?_ _ _ _) ht
    exact beq_iff_eq.mp (Bool.and_eq_true_iff.mp occurs).1
  | searchTimerExpiry =>
    refine State.engine_fit_of_occurs h (fun occurs => State.engine_fit_hailing h ?_ _ _ _) ht
    exact beq_iff_eq.mp (Bool.and_eq_true_iff.mp (Bool.and_eq_true_iff.mp occurs).1).1
  | hailEnd =>
    refine State.engine_fit_of_occurs h (fun occurs => State.engine_fit_hailing h ?_ _ _ _) ht
    exact beq_iff_eq.mp (Bool.and_eq_true_iff.mp occurs).1
  | searchWindowExpiry =>
    refine State.engine_fit_of_occurs h (fun occurs => ?_) ht
    exact h.setSearch (beq_iff_eq.mp (Bool.and_eq_true_iff.mp occurs).1) _ _
  | detachTimerExpiry line =>
    cases line with
    | sp | cp =>
      refine State.engine_fit_of_closed h (fun occurs => State.engine_fit_leaveDetached h ?_) ht
      exact beq_iff_eq.mp (Bool.and_eq_true_iff.mp occurs).1
    | fp => exact State.engine_fit_of_occurs h (fun _ => State.engine_fit_relisten h) ht
  | staleTimerExpiry slot => exact State.engine_fit_of_closed h (fun _ => by rwa [Work.engine_staleExpiry]) ht
  | sweep => exact State.engine_fit_of_closed h (fun _ => State.engine_fit_sweep h) ht
  | scanCompletion samples readings => exact State.engine_fit_of_closed h (fun _ => by rwa [State.engine_completeScan]) ht
  | feedReading feed => exact State.engine_fit_of_occurs h (fun _ => by rwa [State.engine_takeReading]) ht
  | portHold line => exact State.engine_fit_of_closed h (fun _ => State.engine_fit_takeHold h line) ht
  | portRelease line => exact State.engine_fit_of_closed h (fun _ => State.engine_fit_takeRelease h line) ht
  | lineRest line => exact State.engine_fit_of_occurs h (fun _ => by rwa [State.engine_setPhase]) ht
  | ageTimerExpiry | l2ChainBuild | scanTimerExpiry =>
    refine State.engine_fit_of_occurs h (fun _ => ?_) ht
    exact h

theorem step_keeps_engine {s t : State} (h : s.Inv) (ht : step s = .next t) : t.engine.Fit := by
  unfold step at ht
  split at ht
  · obtain rfl := Host.Outcome.next.inj ht
    exact h.engine_fit
  · next rest _ => exact exec_keeps_engine (s := s.withPending rest) h.engine_fit ht

/-- Settles O55: what the statement says of the ports is part of the engine's fit, which every command keeps. -/
theorem stepKeepsPortsConsistent : Obligations.StepKeepsPortsConsistent := fun _ _ h ht => (step_keeps_engine h ht).portInv

/-- Settles O56: and so is what the statement says of the slots. -/
theorem stepKeepsSlotsConsistent : Obligations.StepKeepsSlotsConsistent := fun _ _ h ht => (step_keeps_engine h ht).slotInv

end Sys2Proof.Machine
end


/-! # Proofs about the spreader's search, its attachment, and the holds and releases of the ports (R107 to R111, R115, R116, R149, R150)

The search comes first, then the orders that a monitor hands to its port. What a HAIL_REPLY names, and what taking it makes of the part,
comes last. -/

section
namespace Sys2Proof.Machine

/-! ### The search (R107, R108) -/

/-- R107, R108: the Spreader Port sends a HAIL, and its search timer starts. -/
theorem State.sendHail_eq (s : State) : s.sendHail = { s with
    hail := .sending, searchTimer := some (s.lineEntry .sp).searchInterval
    sp := { s.sp with link := { s.sp.link with phase := .sending ⟨31, .hail, 0, false, false, []⟩ s.sp.link.rate } } } := rfl

theorem exec_firstHail {s : State} (awake : s.awake) (searches : s.sp.state = .search) (due : s.hail = .firstDue) :
    exec .firstHail s = .next s.sendHail := State.occurs_of _ awake (by rw [searches, due]; rfl)

theorem exec_searchTimerExpiry {s : State} (awake : s.awake) (searches : s.sp.state = .search) (waits : s.hail = .waiting)
    (timer : s.searchTimer ≠ none) : exec .searchTimerExpiry s = .next s.sendHail :=
  State.occurs_of _ awake (by rw [searches, waits, Option.isSome_iff_ne_none.mpr timer]; rfl)

theorem exec_hailEnd {s : State} (awake : s.awake) (searches : s.sp.state = .search) (sending : s.hail = .sending) :
    exec .hailEnd s = .next { s.setPhase .sp .rested with hail := .window } :=
  State.occurs_of _ awake (by rw [searches, sending]; rfl)

theorem exec_searchWindowExpiry {s : State} (awake : s.awake) (searches : s.sp.state = .search) (window : s.hail = .window) :
    exec .searchWindowExpiry s = .next { s with hail := .waiting } :=
  State.occurs_of _ awake (by rw [searches, window]; rfl)

/-- Settles O34: two commands send the HAIL of `State.sendHail_eq`, and two open and close the window behind it. -/
theorem searchHailsAndOpensWindows : Obligations.SearchHailsAndOpensWindows := by
  intro s awake searches hailing
  have sends : s.sendHail = hailing := s.sendHail_eq
  exact ⟨fun due => sends ▸ exec_firstHail awake searches due,
    fun waits timer => sends ▸ exec_searchTimerExpiry awake searches waits timer,
    fun sending => exec_hailEnd awake searches sending, fun window => exec_searchWindowExpiry awake searches window⟩

end Sys2Proof.Machine
end

section
namespace Sys2Proof.Machine

/-! ### Orders taken (R149, R150) -/

/-- Taking an order leaves its monitor the orders behind it (log 18). -/
theorem State.takeOrder_eq {l : MasterLine} {s : State} {order : FeedOrder} {rest : List FeedOrder}
    (orders : (s.feed (feedOf l)).orders = order :: rest) :
    s.takeOrder l = s.onFeed (feedOf l) fun f => { f with orders := rest } := by
  have left : { s.feed (feedOf l) with orders := (s.feed (feedOf l)).orders.tail } = { s.feed (feedOf l) with orders := rest } := by
    rw [orders]; rfl
  exact congrArg (fun f => { s with feedRt := s.feedRt.set (feedIx (feedOf l)) f }) left

theorem State.takeOrder_port (s : State) (l : MasterLine) : (s.takeOrder l).port l = s.port l := State.onFeed_port s _ _ l

/-! ### Holds (R115, R149) -/

theorem exec_portHold {l : MasterLine} {s : State} {rest : List FeedOrder} (awake : s.awake)
    (orders : (s.feed (feedOf l)).orders = .hold :: rest) : exec (.portHold l) s = .next (s.work.takeHold l).close :=
  State.occurs_of _ awake (by rw [State.nextOrder, orders]; rfl)

/-- R115, R149: a CYCLING port, and a Spreader Port in SEARCH, enters HELD. -/
theorem Work.takeHold_of_held {l : MasterLine} {s : State} (state : (s.port l).state = .cycling ∨ (l = .sp ∧ s.sp.state = .search)) :
    s.work.takeHold l = (s.takeOrder l).work.hold l := by
  obtain cycling | ⟨rfl, search⟩ := state
  · simp only [Work.takeHold, Work.on_st, State.work_st, State.takeOrder_port, cycling]
    rfl
  · have search : (s.port .sp).state = .search := search
    simp only [Work.takeHold, Work.on_st, State.work_st, State.takeOrder_port, search]
    rfl

/-- R115: any other port keeps its state. -/
theorem Work.takeHold_of_kept {l : MasterLine} {s : State}
    (state : (s.port l).state = .off ∨ (s.port l).state = .held ∨ (s.port l).state = .detached) :
    s.work.takeHold l = (s.takeOrder l).work := by
  obtain state | state | state := state <;> simp only [Work.takeHold, Work.on_st, State.work_st, State.takeOrder_port, state] <;> rfl

/-! ### Releases (R116, R150) -/

theorem exec_portRelease {l : MasterLine} {s : State} {rest : List FeedOrder} (awake : s.awake)
    (orders : (s.feed (feedOf l)).orders = .release :: rest) : exec (.portRelease l) s = .next (s.work.takeRelease l).close :=
  State.occurs_of _ awake (by rw [State.nextOrder, orders]; rfl)

/-- R116: a HELD Spreader Port clears its area and searches. -/
theorem Work.takeRelease_spreader {s : State} (held : s.sp.state = .held) :
    s.work.takeRelease .sp = ((s.takeOrder .sp).work.clearArea .spreader).on State.enterSearch := by
  have held : (s.port .sp).state = .held := held
  simp only [Work.takeRelease, Work.on_st, State.work_st, State.takeOrder_port, held]
  rfl

/-- R150: a HELD Cab Port returns to CYCLING. -/
theorem Work.takeRelease_cab {s : State} (held : s.cp.state = .held) : s.work.takeRelease .cp = (s.takeOrder .cp).resumeCab.work := by
  have held : (s.port .cp).state = .held := held
  simp only [Work.takeRelease, Work.on_st, State.work_st, State.takeOrder_port, held]
  rfl

/-- R116, R150: a port that is not HELD keeps its state. -/
theorem Work.takeRelease_of_kept {l : MasterLine} {s : State} (free : (s.port l).state ≠ .held) :
    s.work.takeRelease l = (s.takeOrder l).work := by
  cases state : (s.port l).state with
  | held => exact absurd state free
  | off | search | cycling | detached =>
    simp only [Work.takeRelease, Work.on_st, State.work_st, State.takeOrder_port, state]
    rfl

/-- R13, R116: the Spreader Port's area is cleared and it searches, as one event. -/
theorem State.clearAndSearch (s : State) :
    let t := ((s.work.clearArea .spreader).on State.enterSearch).close
    (∀ i, t.image.get i = if s.tables.ownedBy .spreader i then (s.image.get i).emptied else s.image.get i) ∧
    State.Ends { s.searching with image := t.image } (fun i => t.image.get i ≠ s.image.get i) t := by
  intro t
  have image : t.image = (s.work.clearArea .spreader).st.image := Work.close_image _
  have staled : s.work.Staled s := Work.Staled.work rfl
  refine ⟨fun i => ?_, Work.ends_of_eq _ ?_ fun i => ?_⟩
  · rw [image]
    exact Work.clearArea_image _ _ _
  · rw [image]
    rfl
  · rw [image]
    exact staled.clearArea_touched_iff .spreader i

/-- Settles O44: the order is taken, and then the port is held, released or left as it is. -/
theorem portsTakeHoldsAndReleases : Obligations.PortsTakeHoldsAndReleases := by
  constructor
  · intro l rest s awake orders u
    have taken : s.takeOrder l = u := State.takeOrder_eq orders
    have run := exec_portHold awake orders
    refine ⟨fun state => ?_, fun state => ?_⟩
    · rw [Work.takeHold_of_held state, taken] at run
      exact ⟨_, run, State.hold_held l u⟩
    · rw [run, Work.takeHold_of_kept state, taken, State.close_work]
  · intro l rest s awake orders u
    have taken : s.takeOrder l = u := State.takeOrder_eq orders
    have run := exec_portRelease awake orders
    refine ⟨?_, ?_, fun free => ?_⟩
    · rintro rfl held
      rw [Work.takeRelease_spreader held, taken] at run
      exact ⟨_, run, u.clearAndSearch⟩
    · rintro rfl held
      rw [Work.takeRelease_cab held, taken, State.close_work] at run
      exact ⟨_, run, u.resumeCab_resumed⟩
    · rw [run, Work.takeRelease_of_kept free, taken, State.close_work]

end Sys2Proof.Machine
end

section
namespace Sys2Proof.Machine

/-! ### What a HAIL_REPLY names (R71, R109) -/

/-- A number of whole bytes is read back from its bytes. -/
theorem ofNat_leNat_leBytes {w : Nat} (k : Nat) (width : w = 8 * k) (x : BitVec w) : BitVec.ofNat w (leNat (leBytes k x.toNat)) = x := by
  have room : x.toNat < 256 ^ k := x.isLt.trans_eq (by rw [width, Nat.pow_mul])
  rw [leNat_leBytes, Nat.mod_eq_of_lt room, BitVec.ofNat_toNat, BitVec.setWidth_eq]

theorem replyType_leBytes (code : BitVec 16) (serial : BitVec 32) :
    replyType (leBytes 2 code.toNat ++ leBytes 4 serial.toNat) = code := by
  rw [replyType, List.take_left' (length_leBytes _ _), ofNat_leNat_leBytes 2 rfl]

theorem replySerial_leBytes (code : BitVec 16) (serial : BitVec 32) :
    replySerial (leBytes 2 code.toNat ++ leBytes 4 serial.toNat) = serial := by
  rw [replySerial, List.drop_left' (length_leBytes _ _), ofNat_leNat_leBytes 4 rfl]

/-- R109: the enabled profile of a type code. -/
def State.Names (s : State) (code : BitVec 16) (p : ProfileIx) : Prop :=
  (s.tables.profiles.get p).enabled = true ∧ (s.tables.profiles.get p).typeCode = code

/-- R109: the lowest enabled profile of the type code is matched. -/
theorem State.matchProfile_eq_some {s : State} {code : BitVec 16} {p : ProfileIx} (names : s.Names code p)
    (lowest : ∀ q, q < p → ¬s.Names code q) : s.matchProfile code = some p := by
  rw [State.matchProfile, List.find?_eq_findSome?_guard, (findSome_indices _).1]
  refine ⟨p, ?_, fun q below => ?_⟩
  · simpa [Option.guard_eq_some_iff, State.Names] using names
  · simpa [Option.guard_eq_none_iff, State.Names] using lowest q below

theorem State.matchProfile_eq_none {s : State} {code : BitVec 16} (unnamed : ∀ p, ¬s.Names code p) : s.matchProfile code = none := by
  rw [State.matchProfile, List.find?_eq_none]
  intro p _ matched
  exact unnamed p (by simpa [State.Names] using matched)

/-! ### What the score of a good frame leaves (R77) -/

section
variable {l : Line} {s t : State} (scored : GoodScored l s t)
include scored

theorem GoodScored.tables : t.tables = s.tables := by rw [scored.frame]; simp

theorem GoodScored.masterRt : t.masterRt = s.masterRt := by rw [scored.frame]; simp

theorem GoodScored.serials : t.serials = s.serials := by rw [scored.frame]; simp

theorem GoodScored.unknownCode : t.unknownCode = s.unknownCode := by rw [scored.frame]; simp

theorem GoodScored.slotRec (e : MasterIx) : t.slotRec e = s.slotRec e := by rw [State.slotRec, scored.tables]; rfl

theorem GoodScored.lineEntry (m : Line) : t.lineEntry m = s.lineEntry m := by rw [State.lineEntry, scored.tables]; rfl

end

/-! ### A reply taken (R109 to R111) -/

theorem exec_hailReplyTaken {f : Frame} {s : State} (awake : s.awake) (receives : s.masterReceives .sp = true)
    (searches : s.sp.state = .search) (window : s.hail = .window) (kind : f.kind = .hailReply) (length : f.payload.length = 6) :
    exec (.hailReplyTaken f) s = .next (((s.judged .sp).scoreGood .sp).takeReply f.payload) :=
  State.occurs_of _ awake (by rw [receives, State.validReply, searches, window, kind, length]; rfl)

/-- R85: the runtime of a slot whose set becomes active, in the words of the statement. -/
theorem startedSlot_eq (m : MasterSlot) (rt : MasterRt) : startedSlot m rt =
    if m.enabled = true then { rt with status := if m.direction = .inbound then .awaiting else .live, misses := 0, armed := false }
    else rt := by
  unfold startedSlot
  cases m.enabled <;> cases m.direction <;> rfl

/-- R110: profile `p` is attached, and the Spreader Port is yet to enter CYCLING. -/
def State.attaching (p : ProfileIx) (code : BitVec 16) (serial : BitVec 32) (s : State) : State :=
  { s with
    attached := some p, serials := s.serials.set p serial, masterRt := (s.onSlots (inProfile p) startedSlot).masterRt
    events := (s.raise (.spreaderAttached p code)).events, ovf := (s.raise (.spreaderAttached p code)).ovf
    searchTimer := none, hail := .off }

theorem State.attach_eq (p : ProfileIx) (code : BitVec 16) (serial : BitVec 32) (s : State) :
    s.attach p code serial = (s.attaching p code serial).enterCycling .sp := by
  obtain ⟨x, hx⟩ : ∃ x, x = State.onSlots { s with attached := some p, serials := s.serials.set p serial } (inProfile p)
    startedSlot := ⟨_, rfl⟩
  obtain ⟨events, ovf⟩ := State.raise_congr (s := x) (t := s) (.spreaderAttached p code) (by rw [hx]; rfl) (by rw [hx]; rfl)
    (by rw [hx]; rfl)
  have attach : s.attach p code serial = (x.raise (.spreaderAttached p code)).stopSearch.enterCycling .sp := by rw [hx]; rfl
  rw [attach, State.raise_frame, events, ovf, hx]
  rfl

theorem State.attaching_masterRt (p : ProfileIx) (code : BitVec 16) (serial : BitVec 32) (s : State) (e : MasterIx) :
    (s.attaching p code serial).masterRt.get e =
      if e.val / 16 = p.val ∧ (s.slotRec e).enabled = true then
        { s.masterRt.get e with
          status := if (s.slotRec e).direction = .inbound then .awaiting else .live, misses := 0, armed := false }
      else s.masterRt.get e := by
  refine (State.onSlots_masterRt _ _ _ _).trans ?_
  rw [startedSlot_eq, ite_and]
  simp only [inProfile, beq_iff_eq]

/-- R111: an unknown code is raised unless the register holds it, and the search goes on. -/
theorem State.unknownReply_eq (code : BitVec 16) (s : State) : s.unknownReply code =
    { (if s.unknownCode = some code then s else s.raise (.spreaderUnknown code)) with unknownCode := some code, hail := .waiting } := rfl

theorem State.takeReply_of_some {s : State} {code : BitVec 16} {p : ProfileIx} (found : s.matchProfile code = some p)
    (serial : BitVec 32) : s.takeReply (leBytes 2 code.toNat ++ leBytes 4 serial.toNat) =
      (s.attaching p code serial).enterCycling .sp := by
  simp only [State.takeReply, replyType_leBytes, replySerial_leBytes, found, State.attach_eq]

theorem State.takeReply_of_none {s : State} {code : BitVec 16} (unknown : s.matchProfile code = none) (serial : BitVec 32) :
    s.takeReply (leBytes 2 code.toNat ++ leBytes 4 serial.toNat) = s.unknownReply code := by
  simp only [State.takeReply, replyType_leBytes, unknown]

/-- Settles O27: the scored part takes the reply, which attaches the profile that its code names or is unknown. -/
theorem hailReplyAttachesOrIsUnknown : Obligations.HailReplyAttachesOrIsUnknown := by
  intro f code serial s awake receives searches window kind payload
  have run := exec_hailReplyTaken awake receives searches window kind (by simp [payload])
  obtain ⟨m, hm⟩ : ∃ m, m = (s.judged .sp).scoreGood .sp := ⟨_, rfl⟩
  have scored : GoodScored .sp s m := hm ▸ State.goodScored _ _
  have named : ∀ p, m.Names code p ↔ s.Names code p := fun p => by rw [State.Names, scored.tables]; rfl
  rw [← hm, payload] at run
  refine ⟨m, scored, fun p enabled type lowest => ?_, fun unnamed => ?_⟩
  · have found := State.matchProfile_eq_some ((named p).mpr ⟨enabled, type⟩) fun q below names => lowest q below ((named q).mp names)
    obtain ⟨cycle, turn, entered, visits, idle⟩ := (m.attaching p code serial).enterCycling_eq .sp
    rw [State.takeReply_of_some found] at run
    generalize (m.attaching p code serial).enterCycling .sp = t at run entered visits idle
    have port : t.sp = { m.sp with
        state := .cycling, cycleTimer := some (s.lineEntry .sp).cyclePeriod, overdue := false, overrun := false, queue := []
        detachTimer := none, cycle := cycle, turn := turn } := by
      rw [entered, ← scored.lineEntry]; rfl
    refine ⟨t, run, by rw [entered]; rfl, fun q => ?_, fun e => ?_, by rw [entered]; rfl, by rw [entered]; rfl, ?_, ?_, ?_, ?_⟩
    · rw [entered, ← scored.serials]
      exact Tab.get_set _ _ _ _
    · rw [entered, ← scored.slotRec, ← scored.masterRt]
      exact m.attaching_masterRt p code serial e
    · rw [port]
    · rw [port]; exact visits
    · rw [port]; exact idle
    · rw [entered]; rfl
  · have unknown := State.matchProfile_eq_none fun p names => unnamed p ((named p).mp names)
    rw [run, State.takeReply_of_none unknown, State.unknownReply_eq, scored.unknownCode]

end Sys2Proof.Machine
end

/-! # Proofs about the festoon line: what is due on it, and the validated flag over the tables (R67, R81, R121 to R128, R157, R162)

The invariant of the festoon line and of the flag speaks of one part of the state, its `Hub`: the operating state, the flag, the tables
and the Festoon Port. `FestoonPort.Fits` says what the port may have due beside the phase of its line, `Hub.SetFits` what the slots and
the flag keep to the tables. A reception leaves a port that owes nothing, `FestoonPort.Silent`, from which a POLL or a command makes one
answer due; the master ports, the gates and the terminals leave the hub alone. The commands that accept DATA and that answer come last. -/

section
namespace Sys2Proof.Machine

/-! ### What the Festoon Port has due (R81, R125 to R127, R162) -/

/-- R81, R127, R162: what the port owes agrees with the phase of its line, and DATA is due in RUN only. -/
structure FestoonPort.Fits (p : FestoonPort) (run : Prop) : Prop where
  receiving : p.link.phase = .receiving → p.due = none
  sending : ∀ f r, p.link.phase = .sending f r → p.due = none
  data : ∀ k, p.due = some (.data k) → run
  restart : p.restartPending = true →
    (∃ tag payload rate, p.due = some (.reply tag payload rate)) ∨ (∃ f r, p.link.phase = .sending f r)
  detached : p.state = .detached → p.link.phase = .ignoring ∧ p.due = none

/-- R127, R162: a LISTENING port with nothing due and no restart pending, as the beginning of a reception leaves it. -/
structure FestoonPort.Silent (p : FestoonPort) : Prop where
  listens : p.state = .listening
  due : p.due = none
  restart : p.restartPending = false

section
variable {p : FestoonPort} {run : Prop}

theorem FestoonPort.listens_of_not_detached (h : p.state ≠ .detached) : p.state = .listening := by
  cases state : p.state with
  | listening => rfl
  | detached => exact absurd state h

theorem FestoonPort.not_detached (h : p.state = .listening) : p.state ≠ .detached := h ▸ nofun

/-- A port that owes nothing fits whatever its line carries, if it listens or ignores the line. -/
theorem FestoonPort.fits_of_nothing_due (due : p.due = none) (restart : p.restartPending = false)
    (detached : p.state = .detached → p.link.phase = .ignoring) : p.Fits run where
  receiving _ := due
  sending _ _ _ := due
  data _ h := nomatch due.symm.trans h
  restart h := nomatch restart.symm.trans h
  detached h := ⟨detached h, due⟩

theorem FestoonPort.Silent.fits (h : p.Silent) : p.Fits run :=
  FestoonPort.fits_of_nothing_due h.due h.restart fun detached => absurd detached (FestoonPort.not_detached h.listens)

/-- R125 to R127: a port whose own frame is on the wire owes nothing but the end of that frame. -/
theorem FestoonPort.fits_of_sending {f : Frame} {r : Rate} (listens : p.state = .listening) (phase : p.link.phase = .sending f r)
    (due : p.due = none) : p.Fits run where
  receiving _ := due
  sending _ _ _ := due
  data _ h := nomatch due.symm.trans h
  restart _ := .inr ⟨f, r, phase⟩
  detached h := absurd h (FestoonPort.not_detached listens)

/-- R126: a reply may be due on a line that carries nothing, with a restart pending or not. -/
theorem FestoonPort.fits_of_reply {tag : BitVec 6} {payload : List Byte} {rate : Rate} (listens : p.state = .listening)
    (phase : p.link.phase = .ignoring) (due : p.due = some (.reply tag payload rate)) : p.Fits run where
  receiving h := nomatch phase.symm.trans h
  sending _ _ h := nomatch phase.symm.trans h
  data _ h := nomatch due.symm.trans h
  restart _ := .inl ⟨tag, payload, rate, due⟩
  detached h := absurd h (FestoonPort.not_detached listens)

/-- R125: in RUN anything may be due on a line that carries nothing, with no restart pending. -/
theorem FestoonPort.fits_of_run (listens : p.state = .listening) (phase : p.link.phase = .ignoring)
    (restart : p.restartPending = false) (holds : run) : p.Fits run where
  receiving h := nomatch phase.symm.trans h
  sending _ _ h := nomatch phase.symm.trans h
  data _ _ := holds
  restart h := nomatch restart.symm.trans h
  detached h := absurd h (FestoonPort.not_detached listens)

/-- What a port owes is read off its state, its line's phase, the answer due and the pending flag alone. -/
theorem FestoonPort.Fits.congr {q : FestoonPort} (h : p.Fits run) (state : q.state = p.state) (phase : q.link.phase = p.link.phase)
    (due : q.due = p.due) (restart : q.restartPending = p.restartPending) : q.Fits run := by
  refine ⟨?_, ?_, ?_, ?_, ?_⟩
  · rw [phase, due]; exact h.receiving
  · rw [phase, due]; exact h.sending
  · rw [due]; exact h.data
  · rw [phase, due, restart]; exact h.restart
  · rw [state, phase, due]; exact h.detached

theorem FestoonPort.Fits.listens_of_sending (h : p.Fits run) {f : Frame} {r : Rate} (phase : p.link.phase = .sending f r) :
    p.state = .listening :=
  FestoonPort.listens_of_not_detached fun detached => nomatch phase.symm.trans (h.detached detached).1

/-- R162: a port that owes nothing and sends nothing has no restart pending. -/
theorem FestoonPort.Fits.not_pending (h : p.Fits run) (due : p.due = none) (phase : ∀ f r, p.link.phase ≠ .sending f r) :
    p.restartPending = false := by
  by_contra pending
  obtain ⟨_, _, _, reply⟩ | ⟨f, r, sending⟩ := h.restart (Bool.eq_true_of_not_eq_false pending)
  · exact nomatch due.symm.trans reply
  · exact phase f r sending

/-- R69: a rest, or the end of an own frame that no restart waits for, leaves what is due. -/
theorem FestoonPort.Fits.rest (h : p.Fits run) (listens : p.state = .listening)
    (phase : p.link.phase = .ignoring ∨ p.restartPending = false) :
    FestoonPort.Fits { p with link := { p.link with phase := .rested } } run where
  receiving := nofun
  sending := nofun
  data := h.data
  restart pending := by
    refine (h.restart pending).imp_right ?_
    rintro ⟨f, r, sending⟩
    obtain ignoring | idle := phase
    · exact nomatch ignoring.symm.trans sending
    · exact nomatch idle.symm.trans pending
  detached h := absurd h (FestoonPort.not_detached listens)

end

/-! ### The hub -/

/-- The part of the state that the festoon line and the validated flag are about. -/
structure Hub where
  operating : Operating
  validated : Bool
  tables : Tables
  port : FestoonPort

/-- The hub of a state. -/
def State.hub (s : State) : Hub := ⟨s.operating, s.validated, s.tables, s.fp⟩

/-- R121, R154, R157: only enabled IN slots are timed, in CONFIG no slot runs, and the flag is yes in RUN and over tables that pass. -/
structure Hub.SetFits (x : Hub) : Prop where
  timers : ∀ k, (x.port.slots.get k).staleTimer.isSome →
    (x.tables.festoonSlots.get k).enabled = true ∧ (x.tables.festoonSlots.get k).direction = .inbound
  rest : x.operating = .config → ∀ k, x.port.slots.get k = .idle
  run : x.operating = .run → x.validated = true
  passed : x.validated = true → x.tables.validate = none

/-- What the invariant says of the hub. -/
structure Hub.Fit (x : Hub) : Prop extends Hub.SetFits x where
  line : x.port.Fits (x.operating = .run)

theorem State.Inv.hub_fit {s : State} (h : s.Inv) : s.hub.Fit where
  timers := h.festoon.staleTimers
  rest := h.rest.festoon
  run := h.valid.run
  passed := h.valid.passed
  line := ⟨h.festoon.receiving, h.festoon.sending, h.festoon.data, h.festoon.restart, h.festoon.detached⟩

theorem Hub.Fit.festoonInv {s : State} (h : s.hub.Fit) : FestoonInv s where
  staleTimers := h.timers
  receiving := h.line.receiving
  sending := h.line.sending
  data := h.line.data
  restart := h.line.restart
  detached := h.line.detached

theorem Hub.Fit.validInv {s : State} (h : s.hub.Fit) : ValidInv s := ⟨h.run, h.passed⟩

section
variable {x : Hub}

/-- The port may change in all but its slots. -/
theorem Hub.SetFits.setPort (h : x.SetFits) {p : FestoonPort} (slots : p.slots = x.port.slots) :
    Hub.SetFits { x with port := p } :=
  ⟨slots ▸ h.timers, slots ▸ h.rest, h.run, h.passed⟩

/-- R121: in RUN a slot takes a runtime, timed only if its record is an enabled IN slot. -/
theorem Hub.SetFits.setSlot (h : x.SetFits) (run : x.operating = .run) {k : SlotIx} {rt : FestoonRt}
    (timed : rt.staleTimer.isSome → (x.tables.festoonSlots.get k).enabled = true ∧ (x.tables.festoonSlots.get k).direction = .inbound) :
    Hub.SetFits { x with port := { x.port with slots := x.port.slots.set k rt } } := by
  refine ⟨fun j => ?_, fun config => Operating.noConfusion (run.symm.trans config), h.run, h.passed⟩
  rw [Tab.get_set]
  split
  · next here => exact here ▸ timed
  · exact h.timers j

/-- R121, R154: in CONFIG, with every slot at rest. -/
theorem Hub.setFits_config (config : x.operating = .config) (idle : ∀ k, x.port.slots.get k = .idle)
    (passed : x.validated = true → x.tables.validate = none) : x.SetFits where
  timers k timed := by
    rw [idle] at timed
    exact Bool.noConfusion timed
  rest _ := idle
  run run := Operating.noConfusion (run.symm.trans config)
  passed := passed

theorem Hub.SetFits.fit (h : x.SetFits) (silent : x.port.Silent) : x.Fit := ⟨h, silent.fits⟩

end

end Sys2Proof.Machine
end

section
namespace Sys2Proof.Machine

/-! ### What keeps the hub -/

section
variable (s : State)

@[simp] theorem State.hub_setPort (l : MasterLine) (p : MasterPort) : (s.setPort l p).hub = s.hub := by cases l <;> rfl
@[simp] theorem State.hub_onPort (l : MasterLine) (f : MasterPort → MasterPort) : (s.onPort l f).hub = s.hub := s.hub_setPort l _
@[simp] theorem State.hub_setLink (l : MasterLine) (k : Link) : (s.setLink (masterLine l) k).hub = s.hub := by cases l <;> rfl
@[simp] theorem State.hub_setPhase (l : MasterLine) (p : LinePhase) : (s.setPhase (masterLine l) p).hub = s.hub := s.hub_setLink l _
@[simp] theorem State.hub_send (l : MasterLine) (f : Frame) : (s.send (masterLine l) f).hub = s.hub := s.hub_setPhase l _
@[simp] theorem State.hub_judged (l : MasterLine) : (s.judged (masterLine l)).hub = s.hub := s.hub_setLink l _
@[simp] theorem State.hub_onSlot (e : MasterIx) (f : MasterRt → MasterRt) : (s.onSlot e f).hub = s.hub := rfl
@[simp] theorem State.hub_onSlots (sel : MasterIx → Bool) (f : MasterSlot → MasterRt → MasterRt) : (s.onSlots sel f).hub = s.hub := rfl
@[simp] theorem State.hub_onFeed (d : Feed) (f : FeedRt → FeedRt) : (s.onFeed d f).hub = s.hub := rfl
@[simp] theorem State.hub_stopSearch : s.stopSearch.hub = s.hub := rfl
@[simp] theorem State.hub_enterSearch : s.enterSearch.hub = s.hub := rfl
@[simp] theorem State.hub_takeOrder (l : MasterLine) : (s.takeOrder l).hub = s.hub := rfl
@[simp] theorem State.hub_buildL2 : s.buildL2.hub = s.hub := rfl

@[simp] theorem State.hub_judged_scoreGood (l : MasterLine) : ((s.judged (masterLine l)).scoreGood (masterLine l)).hub = s.hub := by
  rw [(State.goodScored _ s).frame]
  exact s.hub_setLink l _

@[simp] theorem State.hub_judged_scoreError (l : MasterLine) : ((s.judged (masterLine l)).scoreError (masterLine l)).hub = s.hub := by
  rw [(State.errorScored _ s).frame]
  exact s.hub_setLink l _

end

/-- What only reports keeps the hub. -/
theorem State.Reported.hub {s t : State} (h : s.Reported t) : t.hub = s.hub := by
  obtain ⟨events, ovf, watchLast, rfl, -⟩ := h
  rfl

@[simp] theorem State.hub_raise (s : State) (e : Event) : (s.raise e).hub = s.hub := (s.reported_raise e).hub

@[simp] theorem State.hub_raiseAll (s : State) (es : List Event) : (s.raiseAll es).hub = s.hub := (s.reported_raiseAll es).hub

@[simp] theorem Work.hub_close (w : Work) : w.close.hub = w.st.hub := w.reported_close.hub

@[simp] theorem Work.hub_stale (w : Work) (sigs : List SigIx) : (w.stale sigs).st.hub = w.st.hub := rfl

@[simp] theorem Work.hub_suspectFeed (w : Work) (o : Owner) : (w.suspectFeed o).st.hub = w.st.hub := rfl

@[simp] theorem Work.hub_clearArea (w : Work) (o : Owner) : (w.clearArea o).st.hub = w.st.hub := rfl

@[simp] theorem Work.hub_applyRun (w : Work) (run : List Placement) (bytes : List Byte) : (w.applyRun run bytes).st.hub = w.st.hub := by
  rw [w.applyRun_frame]; rfl

/-! #### Cycles, turns and chain requests -/

section
variable (s : State) (l : MasterLine)

@[simp] theorem State.hub_startCycle : (s.startCycle l).hub = s.hub := by
  by_cases idle : (s.port l).turn = .none ∧ (s.port l).queue = []
  · rw [s.startCycle_of_idle l idle.1 idle.2, s.hub_setPort]
  · rw [s.startCycle_behind l idle, s.hub_setPort]

@[simp] theorem State.hub_enterCycling : (s.enterCycling l).hub = s.hub := by simp [State.enterCycling]

@[simp] theorem State.hub_resumeCab : s.resumeCab.hub = s.hub := by simp [State.resumeCab]

@[simp] theorem State.hub_cycleExpiry : (s.cycleExpiry l).hub = s.hub := by
  cases cycle : (s.port l).cycle with
  | none => rw [State.cycleExpiry_of_none cycle, s.hub_startCycle]
  | some place => rw [State.cycleExpiry_of_some cycle]; split <;> simp

@[simp] theorem State.hub_atBoundary : (s.atBoundary l).hub = s.hub := by
  obtain ⟨p, h, -⟩ := s.atBoundary_eq l
  rw [h, s.hub_setPort]

@[simp] theorem State.hub_beginOut : (s.beginOut l).hub = s.hub := by
  unfold State.beginOut
  split <;> simp

@[simp] theorem State.hub_endOut : (s.endOut l).hub = s.hub := by
  unfold State.endOut
  split
  · rfl
  · simp only; split <;> simp

@[simp] theorem State.hub_beginIn : (s.beginIn l).hub = s.hub := by
  unfold State.beginIn
  split <;> simp

@[simp] theorem State.hub_openWindow : (s.openWindow l).hub = s.hub := by
  unfold State.openWindow
  split <;> simp

@[simp] theorem State.hub_requestTurn (k : SlotIx) : (s.requestTurn l k).hub = s.hub := by
  obtain h | ⟨-, -, h⟩ := s.requestTurn_cases l k <;> rw [h]
  exact s.hub_setPort l _

@[simp] theorem State.hub_requestIf (t : Option ChainTarget) : (State.requestIf t s).hub = s.hub := by
  cases t with
  | none => rfl
  | some c =>
    cases c with
    | sp k => exact s.hub_requestTurn .sp k
    | cp k => exact s.hub_requestTurn .cp k
    | l => rfl

end

/-! #### Misses, detachments, holds, responses and replies -/

@[simp] theorem State.hub_dropAttachment (s : State) : s.dropAttachment.hub = s.hub := by
  unfold State.dropAttachment
  split <;> rfl

section
variable (w : Work) (l : MasterLine)

@[simp] theorem Work.hub_endIfAllLost : (w.endIfAllLost l).st.hub = w.st.hub := by
  unfold Work.endIfAllLost
  split
  · split
    · simp [Work.endAttachment]
    · rfl
  all_goals rfl

@[simp] theorem Work.hub_miss (k : SlotIx) : (w.miss l k).st.hub = w.st.hub := by
  unfold Work.miss
  split
  · rfl
  · simp only; split <;> simp

@[simp] theorem Work.hub_windowOver (ended : Bool) : (w.windowOver l ended).st.hub = w.st.hub := by
  unfold Work.windowOver
  split
  · split
    · exact w.hub_miss l _
    all_goals split <;> rfl
  · rfl

@[simp] theorem Work.hub_windowExpiry : (w.windowExpiry l).st.hub = w.st.hub := by
  unfold Work.windowExpiry
  split
  · rfl
  · exact w.hub_miss l _

@[simp] theorem Work.hub_detachSlots (kes : List (SlotIx × MasterIx)) : (kes.foldl (Work.detachSlot l) w).st.hub = w.st.hub := by
  rw [Work.detachSlots_frame]; rfl

@[simp] theorem Work.hub_detachAttachment : w.detachAttachment.st.hub = w.st.hub := by
  unfold Work.detachAttachment
  split <;> simp

@[simp] theorem Work.hub_detachMaster : (w.detachMaster l).st.hub = w.st.hub := by cases l <;> simp [Work.detachMaster]

@[simp] theorem Work.hub_masterError (ended : Bool) : (w.masterError l ended).st.hub = w.st.hub := by
  unfold Work.masterError
  simp only
  split <;> simp

@[simp] theorem Work.hub_masterStray (ended : Bool) : (w.masterStray l ended).st.hub = w.st.hub := by simp [Work.masterStray]

@[simp] theorem Work.hub_holdAttachment : w.holdAttachment.st.hub = w.st.hub := by rw [w.holdAttachment_st.2.1]; rfl

@[simp] theorem Work.hub_hold : (w.hold l).st.hub = w.st.hub := by cases l <;> simp [Work.hold]

@[simp] theorem Work.hub_leaveDetached : (w.leaveDetached l).st.hub = w.st.hub := by
  unfold Work.leaveDetached
  split
  · exact w.hub_hold l
  · cases l <;> simp

@[simp] theorem Work.hub_takeHold : (w.takeHold l).st.hub = w.st.hub := by
  unfold Work.takeHold
  simp only
  split
  · simp
  · split <;> simp
  all_goals simp

@[simp] theorem Work.hub_takeRelease : (w.takeRelease l).st.hub = w.st.hub := by
  unfold Work.takeRelease
  simp only
  split
  · split <;> simp
  all_goals simp

@[simp] theorem Work.hub_response (f : Frame) : (w.response l f).st.hub = w.st.hub := by
  unfold Work.response
  split
  · rfl
  · simp only [Work.accept]; split <;> simp

end

@[simp] theorem State.hub_takeReply (s : State) (payload : List Byte) : (s.takeReply payload).hub = s.hub := by
  unfold State.takeReply
  split
  · simp [State.attach]; rfl
  · unfold State.unknownReply
    split
    · rfl
    · exact s.hub_raise _

/-! #### Sweeps, scans and readings -/

@[simp] theorem State.hub_sweep (s : State) : s.work.sweep.st.hub = s.hub := by
  have outputs : ∀ w : Work, w.writeOutputs.st.hub = w.st.hub :=
    foldl_keeps (fun w : Work => w.st.hub) (fun w g => by simp only; split <;> rfl) _
  have chains : ∀ (before : Tab GateRt 32) (s : State), (s.sweepChains before).hub = s.hub := fun before =>
    foldl_keeps State.hub (fun s g => by split <;> simp) _
  exact (chains _ _).trans ((State.hub_raiseAll _ _).trans (outputs _))

@[simp] theorem State.hub_handOver (s : State) (d : Feed) (outcome : Nat → Option ReadingOutcome) (readings : Tab (BitVec 12) 16) :
    (s.handOver d outcome readings).hub = s.hub := by
  unfold State.handOver
  split <;> rfl

@[simp] theorem Work.hub_applyL0 (w : Work) (outcome : Nat → Option ReadingOutcome) (payload : List Byte) :
    (w.applyL0 outcome payload).st.hub = w.st.hub := by
  refine foldl_keeps (fun w : Work => w.st.hub) (fun w p => ?_) _ w
  unfold Work.applyL0One
  simp only
  split
  · rfl
  split
  · rfl
  · rw [(w.applyOne_frame _ _ p).1]; rfl

@[simp] theorem State.hub_completeScan (s : State) (samples : BitVec 16) (readings : Tab (BitVec 12) 16) :
    (s.work.completeScan samples readings).st.hub = s.hub := by
  have scanned : (s.scanChannels readings).st.hub = s.hub := (Work.hub_applyL0 _ _ _).trans (State.hub_raiseAll _ _)
  unfold Work.completeScan
  simp only [Work.on_st, State.hub_handOver, State.hub_buildL2, Work.hub_applyRun]
  exact scanned

@[simp] theorem State.hub_takeReading (s : State) (d : Feed) : (s.takeReading d).hub = s.hub := by
  unfold State.takeReading
  split
  · rfl
  · simp only
    split
    · unfold State.stepFeed
      simp only
      split <;> simp
    · rfl

end Sys2Proof.Machine
end

section
namespace Sys2Proof.Machine

/-! ### CONFIG, RUN and the warm restart (R121, R127, R157, R160, R161, R163) -/

theorem State.hub_toConfig (s : State) : s.toConfig.hub = ⟨.config, s.validated, s.tables, s.fp.stopSet.dropData⟩ := rfl

theorem State.hub_toRun (s : State) : s.toRun.hub = ⟨.run, s.validated, s.tables, s.runBase.fp⟩ := by
  have cab : s.runBase.startCab.hub = s.runBase.hub := by
    unfold State.startCab
    split <;> simp
  rw [State.toRun_eq, State.startSpreader_eq]
  exact cab

theorem FestoonPort.dropData_of_none {p : FestoonPort} (due : p.due = none) : p.dropData = p := by simp [FestoonPort.dropData, due]

theorem startedFestoon_timed {m : FestoonSlot} {rt : FestoonRt} (h : (startedFestoon m rt).staleTimer.isSome) :
    m.enabled = true ∧ m.direction = .inbound := by
  unfold startedFestoon at h
  split at h
  · next enabled =>
    split at h
    · next inbound => exact ⟨enabled, inbound⟩
    · exact Bool.noConfusion h
  · exact Bool.noConfusion h

/-- R161: the entry into CONFIG puts the slots at rest. -/
theorem State.setFits_toConfig {s : State} (h : s.hub.SetFits) : s.toConfig.hub.SetFits := by
  refine Hub.setFits_config rfl (fun k => ?_) h.passed
  rw [State.hub_toConfig, FestoonPort.dropData_eq]
  exact Tab.get_fill _ k

/-- R160: the entry into RUN, under a flag over tables that pass, times the enabled IN slots. -/
theorem State.setFits_toRun {s : State} (validated : s.validated = true) (passed : s.tables.validate = none) :
    s.toRun.hub.SetFits := by
  rw [State.hub_toRun]
  refine ⟨fun k timed => ?_, nofun, fun _ => validated, fun _ => passed⟩
  rw [show s.runBase.fp.slots.get k = _ from Tab.get_mapIdx _ _ k] at timed
  exact startedFestoon_timed timed

/-- R163: the warm restart enters RUN again only under the flag. -/
theorem State.setFits_warmRestart {s : State} (h : s.hub.SetFits) : s.warmRestart.hub.SetFits := by
  have counters : s.restartCounters.hub.SetFits := h.setPort rfl
  unfold State.warmRestart
  simp only
  split
  · next validated => exact State.setFits_toRun validated (h.passed validated)
  · exact State.setFits_toConfig counters

/-- R163: the warm restart of a LISTENING port that owes nothing leaves no restart pending. -/
theorem State.silent_warmRestart {s : State} (listens : s.fp.state = .listening) (due : s.fp.due = none) : s.warmRestart.fp.Silent := by
  have config : s.restartCounters.toConfig.fp.Silent := by
    have port : s.restartCounters.toConfig.fp = s.restartCounters.fp.stopSet.dropData := rfl
    rw [port, FestoonPort.dropData_of_none (p := s.restartCounters.fp.stopSet) due]
    exact ⟨listens, due, rfl⟩
  unfold State.warmRestart
  simp only
  split
  · have port : s.restartCounters.toConfig.toRun.fp = s.restartCounters.toConfig.runBase.fp := congrArg Hub.port (State.hub_toRun _)
    rw [port]
    exact ⟨config.listens, config.due, config.restart⟩
  · exact config

theorem State.sending_of_restartReplySent {s : State} (sent : s.restartReplySent = true) : ∃ f r, s.fp.link.phase = .sending f r := by
  obtain ⟨-, sends⟩ := Bool.and_eq_true_iff.mp sent
  split at sends
  · next f r phase => exact ⟨f, r, phase⟩
  all_goals exact Bool.noConfusion sends

/-- R162, R163: the end of the restart's reply. -/
theorem State.hub_fit_warmRestart {s : State} (h : s.hub.Fit) (sent : s.restartReplySent = true) :
    (s.warmRestart.setPhase .fp .rested).hub.Fit := by
  obtain ⟨f, r, phase⟩ := State.sending_of_restartReplySent sent
  obtain ⟨listens, due, restart⟩ := State.silent_warmRestart (h.line.listens_of_sending phase) (h.line.sending f r phase)
  exact Hub.SetFits.fit ((State.setFits_warmRestart h.toSetFits).setPort rfl) ⟨listens, due, restart⟩

/-! ### Receptions (R69, R77, R81, R122, R127, R162) -/

theorem State.festoonReceives_iff {s : State} : s.festoonReceives = true ↔
    s.fp.state = .listening ∧ (s.fp.link.phase = .rested ∨ s.fp.link.phase = .receiving) := by
  cases state : s.fp.state <;> simp [State.festoonReceives, State.scores, state]

/-- A hub that fits its sets, with a silent port. -/
structure Hub.Silent (x : Hub) : Prop extends Hub.SetFits x where
  port : x.port.Silent

theorem Hub.Silent.fit {x : Hub} (h : x.Silent) : x.Fit := h.toSetFits.fit h.port

/-- A silent port whose link has changed. -/
theorem Hub.Silent.setLink {x : Hub} (h : x.Silent) (k : Link) : Hub.Silent { x with port := { x.port with link := k } } :=
  ⟨h.toSetFits.setPort rfl, ⟨h.port.listens, h.port.due, h.port.restart⟩⟩

/-- R127, R162: a reception under way leaves nothing due and no restart pending. -/
theorem State.silent_beginReception {s : State} (h : s.hub.Fit) (receives : s.festoonReceives = true) :
    s.beginReception.hub.Silent := by
  obtain ⟨listens, rested | receiving⟩ := State.festoonReceives_iff.mp receives
  · cases pending : s.fp.restartPending with
    | false =>
      rw [State.beginReception_of_rested rested pending]
      exact ⟨h.toSetFits.setPort rfl, ⟨listens, rfl, pending⟩⟩
    | true =>
      rw [State.beginReception_of_restart rested pending]
      have sets : State.hub { s with fp := { s.fp with due := none } } |>.SetFits := h.toSetFits.setPort rfl
      exact Hub.Silent.setLink ⟨State.setFits_warmRestart sets, State.silent_warmRestart listens rfl⟩ _
  · rw [State.beginReception_of_not_rested (receiving ▸ nofun)]
    have due := h.line.receiving receiving
    exact ⟨h.toSetFits, ⟨listens, due, h.line.not_pending due (receiving ▸ nofun)⟩⟩

/-- R69: the hub after a frame was judged and scored: only the link of the port has changed. -/
theorem State.hub_scored {s t : State} (frame : t = { s.setLink .fp (t.link .fp) with events := t.events, ovf := t.ovf }) :
    t.hub = { s.hub with port := { s.fp with link := t.fp.link } } := congrArg State.hub frame

theorem State.festoonGood_scored (s : State) : GoodScored .fp s.beginReception s.festoonGood := State.goodScored _ _

theorem State.festoonGood_phase (s : State) : s.festoonGood.fp.link.phase = .ignoring := congrArg Link.phase s.festoonGood_scored.link

theorem State.silent_festoonGood {s : State} (h : s.hub.Fit) (receives : s.festoonReceives = true) : s.festoonGood.hub.Silent := by
  rw [State.hub_scored s.festoonGood_scored.frame]
  exact (State.silent_beginReception h receives).setLink _

/-- R77, R81: a frame error is scored, or the port is DETACHED and owes nothing. -/
theorem State.hub_fit_festoonError {s : State} (h : s.hub.Fit) (receives : s.festoonReceives = true) : s.festoonError.hub.Fit := by
  have begun := State.silent_beginReception h receives
  unfold State.festoonError
  simp only
  split
  · rw [State.detachFestoon, State.hub_raise]
    exact ⟨begun.toSetFits.setPort rfl, FestoonPort.fits_of_nothing_due rfl begun.port.restart fun _ => rfl⟩
  · rw [State.hub_scored (State.errorScored .fp s.beginReception).frame]
    exact (begun.setLink _).fit

/-! ### The slot that a frame names (R122, R123, R125) -/

theorem find_indices {n : Nat} (p : Fin n → Bool) (k : Fin n) :
    (indices n).find? p = some k ↔ p k = true ∧ ∀ j, j < k → p j = false := by
  rw [List.find?_eq_findSome?_guard, (findSome_indices _).1]
  simp only [Option.guard_eq_some_iff, Option.guard_eq_none_iff]
  constructor
  · rintro ⟨_, ⟨rfl, found⟩, earlier⟩
    exact ⟨found, earlier⟩
  · rintro ⟨found, earlier⟩
    exact ⟨k, ⟨rfl, found⟩, earlier⟩

/-- R122: the enabled slot of a direction with a tag, and none below it. -/
structure Tables.FestoonSlotNamed (t : Tables) (d : Direction) (tag : BitVec 6) (k : SlotIx) : Prop where
  enabled : (t.festoonSlots.get k).enabled = true
  direction : (t.festoonSlots.get k).direction = d
  tagged : (t.festoonSlots.get k).tag = tag
  lowest : ∀ j, j < k → ¬((t.festoonSlots.get j).enabled = true ∧ (t.festoonSlots.get j).direction = d ∧ (t.festoonSlots.get j).tag = tag)

theorem Tables.festoonSlotNamed_iff {t : Tables} {d : Direction} {tag : BitVec 6} {k : SlotIx} :
    ((indices 16).find? fun k => (t.festoonSlots.get k).enabled && (t.festoonSlots.get k).direction == d &&
      (t.festoonSlots.get k).tag == tag) = some k ↔ t.FestoonSlotNamed d tag k := by
  rw [find_indices]
  simp only [Bool.and_eq_true, beq_iff_eq, ← Bool.not_eq_true, and_assoc]
  exact ⟨fun ⟨enabled, direction, tag, lowest⟩ => ⟨enabled, direction, tag, lowest⟩,
    fun ⟨enabled, direction, tag, lowest⟩ => ⟨enabled, direction, tag, lowest⟩⟩

/-- R122, R123: the slot a DATA frame is accepted for. -/
theorem State.festoonDataSlot_eq_some {s : State} {f : Frame} {k : SlotIx} : s.festoonDataSlot f = some k ↔
    (s.operating = .run ∧ f.kind = .data ∧ (f.address = s.fp.address ∨ f.address = 31)) ∧ s.tables.FestoonSlotNamed .inbound f.tag k := by
  rw [← Tables.festoonSlotNamed_iff]
  simp only [State.festoonDataSlot, Option.ite_none_right_eq_some, Bool.and_eq_true, Bool.or_eq_true, beq_iff_eq, and_assoc]
  rfl

/-- R122, R125: the slot a POLL asks for. -/
theorem State.festoonPollSlot_eq_some {s : State} {f : Frame} {k : SlotIx} : s.festoonPollSlot f = some k ↔
    (s.operating = .run ∧ f.kind = .poll ∧ f.address = s.fp.address) ∧ s.tables.FestoonSlotNamed .outbound f.tag k := by
  rw [← Tables.festoonSlotNamed_iff]
  simp only [State.festoonPollSlot, Option.ite_none_right_eq_some, Bool.and_eq_true, beq_iff_eq, and_assoc]

end Sys2Proof.Machine
end

section
namespace Sys2Proof.Machine

/-! ### The commands of the festoon line (R69, R81, R123 to R127) -/

theorem State.scores_festoon {s : State} : s.scores .fp = true ↔ s.fp.state = .listening := by
  cases state : s.fp.state <;> simp [State.scores, state]

theorem State.mayAnswer_iff {s : State} : s.mayAnswer = true ↔
    s.fp.state = .listening ∧ (s.fp.link.phase = .rested ∨ s.fp.link.phase = .ignoring) := by
  simp [State.mayAnswer, State.scores_festoon]

theorem State.dueData_eq_some {s : State} {k : SlotIx} : s.dueData = some k ↔ s.fp.due = some (.data k) := by
  unfold State.dueData
  split <;> simp [*]

theorem State.dueReply_eq_some {s : State} {tag : BitVec 6} {payload : List Byte} {rate : Rate} :
    s.dueReply = some (tag, payload, rate) ↔ s.fp.due = some (.reply tag payload rate) := by
  unfold State.dueReply
  split <;> simp [*]

theorem State.hub_ite_raise (c : Prop) [Decidable c] (e : Event) (s : State) : (if c then s.raise e else s).hub = s.hub := by
  split
  · exact s.hub_raise e
  · rfl

/-- R123: the part after accepted DATA, before its events and its chain request. -/
def State.festoonAccepted (k : SlotIx) (image : Tab SigRec 512) (s : State) : State :=
  { s with
    image := image
    fp := { s.fp with slots := s.fp.slots.set k ⟨.live, some (s.tables.festoonSlots.get k).staleLimit, s.timestamp⟩ } }

/-- R123: an acceptance in its order: the payload, the slot, SLOT_REGAINED, the chain request. -/
theorem Work.acceptFestoon_eq (k : SlotIx) (payload : List Byte) (w : Work) :
    let slot := w.st.tables.festoonSlots.get k
    let applied := w.applyRun (w.st.tables.festoonRun slot) (payload.take slot.length)
    let accepted := w.st.festoonAccepted k applied.st.image
    w.acceptFestoon k payload = ⟨State.requestIf slot.chain
      (if (w.st.fp.slots.get k).status = .lost then accepted.raise (.slotRegained .fp k) else accepted), applied.touched⟩ := by
  intro slot applied accepted
  have frame : applied.st = { w.st with image := applied.st.image } := w.applyRun_frame _ _
  have port : (applied.st.onFp fun p => { p with slots := p.slots.set k (acceptedFestoon slot.staleLimit applied.st.timestamp) }) =
      accepted := by rw [frame]; rfl
  have taken : w.acceptFestoon k payload = (if (w.st.fp.slots.get k).status == .lost then
      (Work.mk accepted applied.touched).on (State.raise (.slotRegained .fp k))
      else Work.mk accepted applied.touched).on (State.requestIf slot.chain) := by rw [← port]; rfl
  rw [taken]
  by_cases lost : (w.st.fp.slots.get k).status = .lost
  · rw [if_pos lost, if_pos (beq_iff_eq.mpr lost)]; rfl
  · rw [if_neg lost, if_neg (by simpa using lost)]; rfl

theorem GoodScored.operating {l : Line} {s t : State} (scored : GoodScored l s t) : t.operating = s.operating := by
  rw [scored.frame]; simp

/-- R123: DATA restarts the stale timer of the enabled IN slot it is accepted for. -/
theorem State.hub_fit_takeData {s : State} (h : s.hub.Fit) (receives : s.festoonReceives = true) (f : Frame) :
    (s.takeData f).hub.Fit := by
  unfold State.takeData
  split
  · exact h
  · next k found =>
    obtain ⟨⟨run, -⟩, named⟩ := State.festoonDataSlot_eq_some.mp found
    rw [← s.festoonGood_scored.operating] at run
    rw [← s.festoonGood_scored.tables] at named
    have good := State.silent_festoonGood h receives
    rw [Work.hub_close, Work.acceptFestoon_eq, State.hub_requestIf, State.hub_ite_raise]
    exact ⟨good.setSlot run fun _ => ⟨named.enabled, named.direction⟩, FestoonPort.Fits.congr good.port.fits rfl rfl rfl rfl⟩

/-- R125: a POLL makes a slot's DATA due in RUN. -/
theorem State.hub_fit_takePoll {s : State} (h : s.hub.Fit) (receives : s.festoonReceives = true) (f : Frame) :
    (s.takePoll f).hub.Fit := by
  unfold State.takePoll
  split
  · exact h
  · next k found =>
    obtain ⟨⟨run, -⟩, -⟩ := State.festoonPollSlot_eq_some.mp found
    have good := State.silent_festoonGood h receives
    exact ⟨good.toSetFits.setPort rfl,
      FestoonPort.fits_of_run good.port.listens s.festoonGood_phase good.port.restart (s.festoonGood_scored.operating.trans run)⟩

/-- R125: the DATA answer goes on the wire. -/
theorem State.hub_fit_beginAnswer {s : State} (h : s.hub.Fit) (listens : s.fp.state = .listening) : s.beginAnswer.hub.Fit := by
  unfold State.beginAnswer
  split
  · exact h
  · exact ⟨h.toSetFits.setPort rfl, FestoonPort.fits_of_sending listens rfl rfl⟩

/-- R126: the reply goes on the wire. -/
theorem State.hub_fit_beginReply {s : State} (h : s.hub.Fit) (listens : s.fp.state = .listening) : s.beginReply.hub.Fit := by
  unfold State.beginReply
  split
  · exact h
  · exact ⟨h.toSetFits.setPort rfl, FestoonPort.fits_of_sending listens rfl rfl⟩

/-- R124: the slot whose timer expires is of a set that runs, and its timer stops. -/
theorem State.hub_fit_staleExpiry {s : State} (h : s.hub.Fit) {k : SlotIx} (timed : (s.fp.slots.get k).staleTimer.isSome = true) :
    (s.work.staleExpiry k).st.hub.Fit := by
  have run : s.operating = .run := by
    cases operating : s.operating with
    | run => rfl
    | config =>
      rw [show s.fp.slots.get k = .idle from h.rest operating k] at timed
      exact Bool.noConfusion timed
  rw [Work.staleExpiry_st]
  exact ⟨h.setSlot run fun on => Bool.noConfusion on, h.line.congr rfl rfl rfl rfl⟩

/-- R81: a port that leaves DETACHED owes nothing. -/
theorem State.hub_fit_relisten {s : State} (h : s.hub.Fit) (detached : s.fp.state = .detached) : s.relisten.hub.Fit := by
  obtain ⟨ignoring, due⟩ := h.line.detached detached
  have restart := h.line.not_pending due (show ∀ f r, s.fp.link.phase ≠ _ from ignoring ▸ nofun)
  exact Hub.SetFits.fit (h.toSetFits.setPort rfl) ⟨rfl, due, restart⟩

/-- R69: a rest is taken where no restart waits for the end of an own frame. -/
theorem State.hub_fit_rest {s : State} (h : s.hub.Fit) (changes : s.restChanges .fp = true) : (s.setPhase .fp .rested).hub.Fit := by
  obtain ⟨scores, phase⟩ := Bool.and_eq_true_iff.mp changes
  refine ⟨h.toSetFits.setPort rfl, h.line.rest (State.scores_festoon.mp scores) ?_⟩
  split at phase
  · next ignoring => exact .inl ignoring
  · exact .inr ((Bool.not_eq_true' _).mp phase)
  all_goals exact Bool.noConfusion phase

/-- R153: the reset input leaves the line, what is due and a pending restart. -/
theorem State.hub_fit_holdReset {s : State} (h : s.hub.Fit) : s.holdReset.hub.Fit :=
  ⟨h.toSetFits.setPort rfl, FestoonPort.fits_of_nothing_due rfl rfl fun _ => rfl⟩

theorem State.hub_fit_powerOn (strap : BitVec 5) (q : List Instr) : (State.powerOn strap q).hub.Fit :=
  Hub.SetFits.fit (Hub.setFits_config rfl (fun k => Tab.get_fill _ k) nofun) ⟨rfl, rfl, rfl⟩

end Sys2Proof.Machine
end

section
namespace Sys2Proof.Machine

/-! ### Management commands (R126, R155, R158, R161, R162) -/

/-- The hub while a command is served: its frame has ended, and the port listens behind it. -/
structure Hub.Serves (x : Hub) : Prop extends Hub.SetFits x where
  listens : x.port.state = .listening
  phase : x.port.link.phase = .ignoring

/-- R126: the reply that a served command leaves due. -/
theorem Hub.Serves.reply {x : Hub} (h : x.Serves) (tag : BitVec 6) (payload : List Byte) (rate : Rate) :
    Hub.Fit { x with port := { x.port with due := some (.reply tag payload rate) } } :=
  ⟨h.toSetFits.setPort rfl, FestoonPort.fits_of_reply h.listens h.phase rfl⟩

/-- A management command leaves a hub that its reply fits. -/
def KeepsServing (command : Work → Served) : Prop := ∀ w : Work, w.st.hub.Serves → (command w).work.st.hub.Serves

theorem keepsServing_of_same {command : Work → Served} (same : ∀ w, (command w).work.st.hub = w.st.hub) : KeepsServing command :=
  fun w h => same w ▸ h

theorem Work.enterConfig_keepsServing : KeepsServing Work.enterConfig := fun w h => by
  unfold Work.enterConfig
  split
  · exact h
  · refine ⟨State.setFits_toConfig h.toSetFits, ?_, ?_⟩ <;> rw [Work.on_st, State.hub_toConfig, FestoonPort.dropData_eq]
    · exact h.listens
    · exact h.phase

/-- R157, R158: RUN is entered under the flag, over tables that every pass of the validation has found good. -/
theorem Work.enterRun_keepsServing : KeepsServing Work.enterRun := fun w h => by
  unfold Work.enterRun
  split
  · exact h
  · split
    · exact h
    · next passed =>
      have entered := State.setFits_toRun (s := { w.st with validated := true }) rfl passed
      refine ⟨entered, ?_, ?_⟩ <;> rw [Work.on_st, State.hub_toRun]
      · exact h.listens
      · exact h.phase

/-- R162: a restart pending is no part of what the reply needs. -/
theorem restart_keepsServing (data : List Byte) :
    KeepsServing fun w => ⟨w.on fun s => s.onFp fun p => { p with restartPending := true }, .done, data⟩ :=
  fun _ h => ⟨h.toSetFits.setPort rfl, h.listens, h.phase⟩

theorem State.hub_acceptWrite (s : State) (table : TableId) (i : Nat) (t : Tables) : (s.acceptWrite table i t).hub =
    { s.hub with tables := t, validated := if table = .watch then s.validated else false } := by
  unfold State.acceptWrite
  split
  · split <;> rfl
  all_goals rfl

/-- R155: in RUN no table but WATCH is written. -/
theorem State.config_or_watch {s : State} {table : TableId} (allowed : ¬(s.operating == .run && table != .watch) = true) :
    s.operating = .config ∨ table = .watch := by
  cases operating : s.operating with
  | config => exact .inl rfl
  | run =>
    by_contra other
    exact allowed (by simpa [operating] using other)

/-- R155, R157: a write clears the flag, but for table WATCH, which no pass of the validation reads. -/
theorem State.setFits_acceptWrite {s : State} (h : s.hub.SetFits) {table : TableId} (hw : s.operating = .config ∨ table = .watch)
    {i : Nat} {bs : List Byte} {t : Tables} {clamped : Bool} (written : s.tables.write table i bs = some (t, clamped)) :
    (s.acceptWrite table i t).hub.SetFits := by
  rw [State.hub_acceptWrite]
  by_cases watch : table = .watch
  · subst watch
    obtain ⟨w, rfl⟩ := Tables.write_watch written
    exact ⟨h.timers, h.rest, h.run, h.passed⟩
  · have config := hw.resolve_right watch
    rw [if_neg watch]
    exact Hub.setFits_config config (h.rest config) nofun

theorem Work.writeTable_keepsServing (req : List Byte) : KeepsServing (Work.writeTable req) := fun w h => by
  unfold Work.writeTable
  split
  · exact h
  · next table _ =>
    split
    · exact h
    · next allowed =>
      simp only
      split
      · exact h
      · next written =>
        have sets := State.setFits_acceptWrite h.toSetFits (State.config_or_watch allowed) written
        refine ⟨sets, ?_, ?_⟩ <;> rw [Work.on_st, State.hub_acceptWrite]
        · exact h.listens
        · exact h.phase

theorem Work.hub_sendOnce (line slot : Nat) (w : Work) : (w.sendOnce line slot).work.st.hub = w.st.hub := by
  unfold Work.sendOnce
  split
  · rfl
  split
  · split
    · rfl
    · simp only; split <;> rfl
  · rfl

theorem State.hub_fit_serve {s : State} (h : s.hub.Fit) (receives : s.festoonReceives = true) {command : Work → Served}
    (hc : KeepsServing command) (tag : BitVec 6) (code : Nat) : (s.serve tag code command).hub.Fit := by
  have good := State.silent_festoonGood h receives
  exact (Work.hub_close _).symm ▸ (hc s.festoonGood.work ⟨good.toSetFits, good.port.listens, s.festoonGood_phase⟩).reply _ _ _

/-! ### Every command -/

theorem State.hub_fit_of_occurs {s t : State} (h : s.hub.Fit) {possible : Bool} {next : State}
    (hn : possible = true → next.hub.Fit) (ht : s.occurs possible next = .next t) : t.hub.Fit :=
  State.keeps_of_occurs (P := fun s => s.hub.Fit) h hn ht

theorem State.hub_fit_of_same {s t : State} (h : s.hub.Fit) {possible : Bool} {next : State} (same : next.hub = s.hub)
    (ht : s.occurs possible next = .next t) : t.hub.Fit := State.hub_fit_of_occurs h (fun _ => same ▸ h) ht

theorem State.hub_fit_of_manage {s t : State} (h : s.hub.Fit) {tag : BitVec 6} {code need : Nat} {req : List Byte}
    {command : Work → Served} (hc : KeepsServing command) (ht : s.manage tag code need req command = .next t) : t.hub.Fit := by
  refine State.hub_fit_of_occurs h (fun occurs => ?_) ht
  refine State.hub_fit_serve h (Bool.and_eq_true_iff.mp occurs).1 (fun w serves => ?_) tag code
  unfold withRequest
  split
  · exact serves
  · exact hc w serves

/-- Every command keeps the hub fit: those of the master lines, the gates and the terminals leave it as it is. -/
theorem exec_keeps_hub {c : Instr} {s t : State} (h : s.hub.Fit) (ht : exec c s = .next t) : t.hub.Fit := by
  cases c with
  | powerOn strap | resetInputRelease strap =>
    obtain rfl := Host.Outcome.next.inj ht
    exact State.hub_fit_powerOn _ _
  | resetInputAssert =>
    obtain rfl := Host.Outcome.next.inj ht
    exact State.hub_fit_holdReset h
  | warmRestart =>
    exact State.hub_fit_of_occurs h (State.hub_fit_warmRestart h) ht
  | status tag req | readEvents tag req | releaseAll tag req => exact State.hub_fit_of_manage h (keepsServing_of_same fun _ => rfl) ht
  | restart tag req => exact State.hub_fit_of_manage h (restart_keepsServing []) ht
  | enterConfig tag req => exact State.hub_fit_of_manage h Work.enterConfig_keepsServing ht
  | enterRun tag req => exact State.hub_fit_of_manage h Work.enterRun_keepsServing ht
  | readTable tag req => exact State.hub_fit_of_manage h (keepsServing_of_same fun w => by rw [Work.readTable_frame]; rfl) ht
  | writeTable tag req => exact State.hub_fit_of_manage h (Work.writeTable_keepsServing req) ht
  | readSignals tag req => exact State.hub_fit_of_manage h (keepsServing_of_same fun w => by rw [Work.readSignals_work]) ht
  | writeSignal tag req => exact State.hub_fit_of_manage h (keepsServing_of_same fun w => by rw [Work.writeSignal_frame]; rfl) ht
  | force tag req => exact State.hub_fit_of_manage h (keepsServing_of_same fun w => by rw [Work.force_frame]; rfl) ht
  | release tag req => exact State.hub_fit_of_manage h (keepsServing_of_same fun w => by rw [Work.release_frame]; rfl) ht
  | sendOnce tag req => exact State.hub_fit_of_manage h (keepsServing_of_same (Work.hub_sendOnce _ _)) ht
  | unknownCommand tag payload =>
    exact State.hub_fit_of_occurs h
      (fun occurs => State.hub_fit_serve h (Bool.and_eq_true_iff.mp occurs).1 (keepsServing_of_same fun _ => rfl) tag _) ht
  | frameError line chars ended =>
    cases line with
    | sp | cp => exact State.hub_fit_of_same h (by simp) ht
    | fp => exact State.hub_fit_of_occurs h (fun occurs => State.hub_fit_festoonError h (Bool.and_eq_true_iff.mp occurs).2) ht
  | strayFrame line f ended =>
    cases line with
    | sp | cp => exact State.hub_fit_of_same h (by simp) ht
    | fp =>
      refine State.hub_fit_of_occurs h (fun occurs => (State.silent_festoonGood h ?_).fit) ht
      exact (Bool.and_eq_true_iff.mp (Bool.and_eq_true_iff.mp occurs).1).2
  | festoonDataAccepted f =>
    refine State.hub_fit_of_occurs h (fun occurs => State.hub_fit_takeData h ?_ f) ht
    exact (Bool.and_eq_true_iff.mp (Bool.and_eq_true_iff.mp occurs).1).2
  | festoonPoll f =>
    refine State.hub_fit_of_occurs h (fun occurs => State.hub_fit_takePoll h ?_ f) ht
    exact (Bool.and_eq_true_iff.mp (Bool.and_eq_true_iff.mp occurs).1).2
  | festoonReceptionStart =>
    refine State.hub_fit_of_occurs h (fun occurs => (State.silent_beginReception h ?_).fit) ht
    obtain ⟨scores, rested⟩ := Bool.and_eq_true_iff.mp occurs
    exact State.festoonReceives_iff.mpr ⟨State.scores_festoon.mp scores, .inl (beq_iff_eq.mp rested)⟩
  | festoonDataAnswer =>
    refine State.hub_fit_of_occurs h (fun occurs => State.hub_fit_beginAnswer h ?_) ht
    exact (State.mayAnswer_iff.mp (Bool.and_eq_true_iff.mp (Bool.and_eq_true_iff.mp occurs).1).1).1
  | mgmtReplyStart =>
    refine State.hub_fit_of_occurs h (fun occurs => State.hub_fit_beginReply h ?_) ht
    exact (State.mayAnswer_iff.mp (Bool.and_eq_true_iff.mp occurs).1).1
  | staleTimerExpiry slot =>
    exact State.hub_fit_of_occurs h (fun timed => (Work.hub_close _).symm ▸ State.hub_fit_staleExpiry h timed) ht
  | detachTimerExpiry line =>
    cases line with
    | sp | cp => exact State.hub_fit_of_same h (by simp) ht
    | fp =>
      refine State.hub_fit_of_occurs h (fun occurs => State.hub_fit_relisten h ?_) ht
      exact beq_iff_eq.mp (Bool.and_eq_true_iff.mp occurs).1
  | lineRest line =>
    cases line with
    | sp => exact State.hub_fit_of_same h (s.hub_setPhase .sp _) ht
    | cp => exact State.hub_fit_of_same h (s.hub_setPhase .cp _) ht
    | fp => exact State.hub_fit_of_occurs h (State.hub_fit_rest h) ht
  | hailReplyTaken f => exact State.hub_fit_of_same h ((State.hub_takeReply _ _).trans (s.hub_judged_scoreGood .sp)) ht
  | ageTimerExpiry | firstHail | searchTimerExpiry | hailEnd | searchWindowExpiry | l2ChainBuild | scanTimerExpiry =>
    refine State.hub_fit_of_same h ?_ ht
    rfl
  | masterResponseAccepted line f | cycleTimerExpiry line | outTurnStart line | outFrameEnd line | turnBoundary line | inTurn line
  | pollEnd line | responseWindowExpiry line | sweep | scanCompletion samples readings | feedReading feed | portHold line
  | portRelease line =>
    exact State.hub_fit_of_same h (by simp) ht

theorem step_keeps_hub {s t : State} (h : s.Inv) (ht : step s = .next t) : t.hub.Fit := by
  unfold step at ht
  split at ht
  · obtain rfl := Host.Outcome.next.inj ht
    exact h.hub_fit
  · next rest _ => exact exec_keeps_hub (s := s.withPending rest) h.hub_fit ht

/-- Settles O59: the festoon line and the flag are what the hub's fit speaks of, which every command keeps. -/
theorem stepKeepsAnswersAndValidation : Obligations.StepKeepsAnswersAndValidation :=
  ⟨fun _ _ h ht => (step_keeps_hub h ht).festoonInv, fun _ _ h ht => (step_keeps_hub h ht).validInv⟩

end Sys2Proof.Machine
end

section
namespace Sys2Proof.Machine

/-! ### DATA accepted, and answers due and sent (R67, R123, R125, R126, R128) -/

theorem exec_festoonDataAccepted {f : Frame} {k : SlotIx} {s : State} (awake : s.awake) (fits : frameWithinLimit f = true)
    (receives : s.festoonReceives = true) (slot : s.beginReception.festoonDataSlot f = some k) :
    exec (.festoonDataAccepted f) s = .next (s.festoonGood.work.acceptFestoon k f.payload).close := by
  refine (State.occurs_of _ awake (by rw [fits, receives, slot]; rfl)).trans (congrArg Host.Outcome.next ?_)
  rw [State.takeData, slot]

theorem exec_festoonPoll {f : Frame} {k : SlotIx} {s : State} (awake : s.awake) (fits : frameWithinLimit f = true)
    (receives : s.festoonReceives = true) (slot : s.beginReception.festoonPollSlot f = some k) :
    exec (.festoonPoll f) s = .next (s.festoonGood.onFp fun p => { p with due := some (.data k) }) := by
  refine (State.occurs_of _ awake (by rw [fits, receives, slot]; rfl)).trans (congrArg Host.Outcome.next ?_)
  rw [State.takePoll, slot]

theorem State.attn_eq (s : State) : s.attn = decide (s.events ≠ []) := by
  cases h : s.events <;> simp [State.attn, h]

theorem exec_festoonDataAnswer {k : SlotIx} {s : State} (awake : s.awake) (answers : s.mayAnswer = true)
    (due : s.fp.due = some (.data k)) (run : s.operating = .run) :
    exec .festoonDataAnswer s = .next ((s.send .fp (s.answerFrame k)).onFp fun p => { p with due := none }) := by
  have slot := State.dueData_eq_some.mpr due
  refine (State.occurs_of _ awake (by rw [answers, slot, run]; rfl)).trans (congrArg Host.Outcome.next ?_)
  rw [State.beginAnswer, slot]

theorem exec_mgmtReplyStart {tag : BitVec 6} {payload : List Byte} {rate : Rate} {s : State} (awake : s.awake)
    (answers : s.mayAnswer = true) (due : s.fp.due = some (.reply tag payload rate)) :
    exec .mgmtReplyStart s =
      .next ((s.setPhase .fp (.sending (s.replyFrame tag payload) rate)).onFp fun p => { p with due := none }) := by
  have reply := State.dueReply_eq_some.mpr due
  refine (State.occurs_of _ awake (by rw [answers, reply]; rfl)).trans (congrArg Host.Outcome.next ?_)
  rw [State.beginReply, reply]

/-- Settles O28: the acceptance of `Work.acceptFestoon_eq`, on the part after its frame was scored. -/
theorem festoonDataIsAccepted : Obligations.FestoonDataIsAccepted := by
  intro f k s awake fits receives b u slot run kind address enabled direction tagged lowest
  have scored : GoodScored .fp b u := s.festoonGood_scored
  have found := State.festoonDataSlot_eq_some.mpr ⟨⟨run, kind, address⟩, ⟨enabled, direction, tagged, lowest⟩⟩
  refine ⟨scored, ?_⟩
  rw [exec_festoonDataAccepted awake fits receives found, Work.acceptFestoon_eq]
  simp only [State.work_st, State.festoonAccepted]
  rw [show s.festoonGood.tables = b.tables from scored.tables]
  rfl

/-- Settles O29: a POLL leaves its slot's DATA due, and each due answer goes on the wire as the frame it is. -/
theorem festoonAnswersAreDueThenSent : Obligations.FestoonAnswersAreDueThenSent := by
  intro s awake
  refine ⟨?_, fun k listens phase due run => ?_, fun tag payload rate listens phase due => ?_⟩
  · intro f k fits receives b run kind address enabled direction tagged lowest
    have found := State.festoonPollSlot_eq_some.mpr ⟨⟨run, kind, address⟩, ⟨enabled, direction, tagged, lowest⟩⟩
    exact ⟨s.festoonGood, s.festoonGood_scored, exec_festoonPoll awake fits receives found⟩
  · rw [exec_festoonDataAnswer awake (State.mayAnswer_iff.mpr ⟨listens, phase⟩) due run, State.answerFrame, s.attn_eq]
    rfl
  · rw [exec_mgmtReplyStart awake (State.mayAnswer_iff.mpr ⟨listens, phase⟩) due, State.replyFrame, s.attn_eq]
    rfl

end Sys2Proof.Machine
end

/-! # Proofs about the trolley terminals (R131 to R140)

How a channel steps on a reading and an input counts a sample, the payloads of L0, L1 and L2, the L0 placements, the hand-over to the
monitors, and then the completion of a scan, which does all of these in turn. -/

section
namespace Sys2Proof.Machine

/-! ### Channels and digital inputs (R132 to R134) -/

theorem isOpenReading_iff (c : Channel) (r : BitVec 12) : isOpenReading c r = true ↔ c.openCheck = true ∧ 4064 ≤ r.toNat := by
  rw [isOpenReading, Bool.and_eq_true, decide_eq_true_eq, Config.openReading]

section
variable {c : Channel} {rt : ChannelRt} {r : BitVec 12}

theorem readingOutcome_of_sound (sound : ¬isOpenReading c r = true) : readingOutcome c rt r = .delivered := if_neg sound

theorem readingOutcome_of_counting (broken : isOpenReading c r = true) (normal : rt.state = .normal) (few : rt.openCount < 2) :
    readingOutcome c rt r = .withheld := by
  simp only [readingOutcome, broken, normal, if_true, if_neg (show ¬2 ≤ rt.openCount by omega)]

theorem readingOutcome_of_third (broken : isOpenReading c r = true) (normal : rt.state = .normal) (third : 2 ≤ rt.openCount) :
    readingOutcome c rt r = .opened := by
  simp only [readingOutcome, broken, normal, if_true, if_pos third]

theorem readingOutcome_of_opened (broken : isOpenReading c r = true) (opened : rt.state = .opened) :
    readingOutcome c rt r = .opened := by
  simp only [readingOutcome, broken, opened, if_true]

theorem steppedChannel_of_delivered (h : readingOutcome c rt r = .delivered) : steppedChannel c rt r = ⟨.normal, 0, r⟩ := by
  rw [steppedChannel, h]

theorem steppedChannel_of_withheld (h : readingOutcome c rt r = .withheld) :
    steppedChannel c rt r = ⟨.normal, rt.openCount + 1, r⟩ := by
  rw [steppedChannel, h]

theorem steppedChannel_of_opened (h : readingOutcome c rt r = .opened) : steppedChannel c rt r = ⟨.opened, 3, r⟩ := by
  rw [steppedChannel, h]

end

theorem channelEvents_to_normal (i : Fin 16) (rt : ChannelRt) (n : Nat) (r : BitVec 12) :
    channelEvents i rt ⟨.normal, n, r⟩ = if rt.state = .opened then [.inputRestored i r] else [] := by
  cases state : rt.state <;> simp [channelEvents, state]

theorem channelEvents_to_opened (i : Fin 16) (rt : ChannelRt) (n : Nat) (r : BitVec 12) :
    channelEvents i rt ⟨.opened, n, r⟩ = if rt.state = .normal then [.inputOpen i r] else [] := by
  cases state : rt.state <;> simp [channelEvents, state]

theorem countedInput_first (q : Nat) (sample : Bool) (rt : InputRt) : countedInput true q sample rt = ⟨sample, 0⟩ := rfl

theorem countedInput_same (q : Nat) {sample : Bool} {rt : InputRt} (same : sample = rt.level) :
    countedInput false q sample rt = ⟨rt.level, 0⟩ := by
  simp [countedInput, same]

theorem countedInput_differs (q : Nat) {sample : Bool} {rt : InputRt} (differs : sample ≠ rt.level) :
    countedInput false q sample rt = if rt.changes + 1 < q then ⟨rt.level, rt.changes + 1⟩ else ⟨sample, 0⟩ := by
  by_cases few : rt.changes + 1 < q
  · simp [countedInput, differs, few, show ¬q ≤ rt.changes + 1 by omega]
  · simp [countedInput, differs, few, show q ≤ rt.changes + 1 by omega]

/-! ### Scans and L2 builds begin (R131, R138, R139) -/

theorem exec_scanTimerExpiry {s : State} (awake : s.awake) (run : s.operating = .run) (timer : s.tio.scanTimer ≠ none)
    (free : s.tio.scanInFlight = false) : exec .scanTimerExpiry s = .next s.beginScan :=
  State.occurs_of _ awake (by rw [run, free, Option.isSome_iff_ne_none.mpr timer]; rfl)

theorem exec_l2ChainBuild {s : State} (awake : s.awake) (run : s.operating = .run) (request : 0 < s.tio.l2Requests) :
    exec .l2ChainBuild s = .next s.takeL2Request.buildL2 :=
  State.occurs_of _ awake (by rw [run, decide_eq_true request]; rfl)

/-- R138: relay `i` follows bit `i` of the built payload. -/
theorem State.buildL2_relays (s : State) {i : Nat} (hi : i < 8) :
    s.buildL2.tio.relays.getLsbD i = (s.buildNat (s.tables.lRun s.tables.l2)).testBit i := by
  have room : (256 : Nat) ^ 1 = 2 ^ 8 := rfl
  rw [State.buildL2, State.build, leNat_leBytes, BitVec.getLsbD_ofNat, room, Nat.testBit_mod_two_pow, decide_eq_true hi,
    Bool.true_and, Bool.true_and]

/-- R138: L2 is built from the image, the tables and the gates. -/
theorem State.buildL2_relays_of_same {s t : State} (image : s.image = t.image) (tables : s.tables = t.tables)
    (gates : s.gateRt = t.gateRt) {i : Nat} (hi : i < 8) :
    s.buildL2.tio.relays.getLsbD i = (t.buildNat (t.tables.lRun t.tables.l2)).testBit i := by
  rw [s.buildL2_relays hi, State.buildNat_congr image tables gates, tables]

/-- Settles O41: the two commands by their equations, a channel's step by its outcome, and an input's count by its sample. -/
theorem scansBeginAndTerminalsStep : Obligations.ScansBeginAndTerminalsStep := by
  refine ⟨fun s awake run => ⟨exec_scanTimerExpiry awake run, fun request => ⟨_, fun i hi => ?_, exec_l2ChainBuild awake run request⟩⟩,
    fun c rt r i => ?_, fun q sample rt => ⟨countedInput_first q sample rt, countedInput_same q, countedInput_differs q⟩⟩
  · exact State.buildL2_relays_of_same (s := s.takeL2Request) (t := s) rfl rfl rfl hi
  · intro broken
    have checked : isOpenReading c r = true ↔ broken := isOpenReading_iff c r
    refine ⟨fun sound => ?_, fun h normal few => ?_, fun h normal third => ?_, fun h opened => ?_⟩
    · have outcome : readingOutcome c rt r = .delivered := readingOutcome_of_sound (mt checked.mp sound)
      rw [steppedChannel_of_delivered outcome]
      exact ⟨rfl, outcome, channelEvents_to_normal i rt 0 r⟩
    · have outcome := readingOutcome_of_counting (checked.mpr h) normal few
      rw [steppedChannel_of_withheld outcome, channelEvents_to_normal, normal]
      exact ⟨rfl, outcome, rfl⟩
    · have outcome := readingOutcome_of_third (checked.mpr h) normal third.ge
      rw [steppedChannel_of_opened outcome, channelEvents_to_opened, normal]
      exact ⟨rfl, outcome, rfl⟩
    · have outcome := readingOutcome_of_opened (checked.mpr h) opened
      rw [steppedChannel_of_opened outcome, channelEvents_to_opened, opened]
      exact ⟨rfl, outcome, rfl⟩

end Sys2Proof.Machine
end

section
namespace Sys2Proof.Machine

/-! ### The payloads of L0 and L1 (R136, R137) -/

theorem leNat_append (xs ys : List Byte) : leNat (xs ++ ys) = leNat xs + 2 ^ (8 * xs.length) * leNat ys := by
  induction xs with
  | nil => simp [leNat]
  | cons x xs ih =>
    have shift : 2 ^ (8 * (x :: xs).length) = 256 * 2 ^ (8 * xs.length) := by rw [List.length_cons, Nat.mul_succ, Nat.pow_add]; ring
    rw [List.cons_append, leNat, ih, leNat, shift]
    ring

/-- Bit `b` of numbers written as two bytes each is bit `b mod 16` of number `b / 16`. -/
theorem testBit_leNat_words (ns : List Nat) (b : Nat) :
    (leNat (ns.flatMap (leBytes 2))).testBit b = (ns.getD (b / 16) 0).testBit (b % 16) := by
  induction ns generalizing b with
  | nil => simp [leNat]
  | cons n ns ih =>
    have stack : leNat ((n :: ns).flatMap (leBytes 2)) = 2 ^ 16 * leNat (ns.flatMap (leBytes 2)) + n % 2 ^ 16 := by
      rw [List.flatMap_cons, leNat_append, leNat_leBytes, length_leBytes, Nat.add_comm]
      norm_num
    rw [stack, Nat.testBit_two_pow_mul_add _ (Nat.mod_lt _ (Nat.two_pow_pos 16))]
    by_cases hb : b < 16
    · rw [if_pos hb, Nat.testBit_mod_two_pow, decide_eq_true hb, Bool.true_and, Nat.div_eq_of_lt hb, Nat.mod_eq_of_lt hb,
        List.getD_cons_zero]
    · have hq : b / 16 = (b - 16) / 16 + 1 := by omega
      have hr : b % 16 = (b - 16) % 16 := by omega
      rw [if_neg hb, ih, hq, hr, List.getD_cons_succ]

/-- R136: bit `b` of L0 is bit `b mod 16` of the reading of channel `b / 16`, if that channel is enabled. -/
theorem State.leNat_l0Payload (s : State) (readings : Tab (BitVec 12) 16) : leNat (s.l0Payload readings) =
    Nat.ofBits fun b : Fin 256 => (s.tables.channels.get ⟨b.val / 16, by omega⟩).enabled &&
      (readings.get ⟨b.val / 16, by omega⟩).getLsbD (b.val % 16) := by
  have words : s.l0Payload readings = ((indices 16).map fun c =>
      if (s.tables.channels.get c).enabled then (readings.get c).toNat else 0).flatMap (leBytes 2) := (List.flatMap_map ..).symm
  refine Nat.eq_of_testBit_eq fun b => ?_
  rw [words, testBit_leNat_words, Nat.testBit_ofBits]
  by_cases hb : b < 256
  · have hc : b / 16 < 16 := by omega
    rw [dif_pos hb]
    cases enabled : (s.tables.channels.get ⟨b / 16, hc⟩).enabled <;> simp [indices, hc, enabled, BitVec.testBit_toNat]
  · have hc : 16 ≤ b / 16 := by omega
    rw [dif_neg hb, List.getD_eq_default _ _ (by simpa [indices] using hc), Nat.zero_testBit]

/-- R137: bit `i` of L1 is the qualified level of input `i`. -/
theorem leNat_l1Payload (inputs : Tab InputRt 16) :
    leNat (l1Payload inputs) = Nat.ofBits fun b : Fin 16 => (inputs.get b).level := by
  have bits : (indices 16).foldr (fun i n => (inputs.get i).level.toNat + 2 * n) 0 =
      Nat.ofBits fun b : Fin 16 => (inputs.get b).level := by
    rw [Nat.ofBits, Fin.foldr_eq_finRange_foldr, indices]
    simp only [Nat.add_comm]
  rw [l1Payload, leNat_leBytes, bits]
  exact Nat.mod_eq_of_lt (Nat.ofBits_lt_two_pow _)

@[simp] theorem length_l1Payload (inputs : Tab InputRt 16) : (l1Payload inputs).length = 2 := length_leBytes _ _

/-! ### The channels that an L0 placement reads (R136) -/

/-- R133: the outcome of a channel's reading at a scan of the state. -/
def State.outcome (s : State) (readings : Tab (BitVec 12) 16) (c : Fin 16) : ReadingOutcome :=
  readingOutcome (s.tables.channels.get c) (s.tio.channels.get c) (readings.get c)

/-- R136: the field of an L0 placement holds a bit of the channel's, and the channel is enabled. -/
def Tables.Reads (t : Tables) (p : Placement) (c : Fin 16) : Prop :=
  p.offset / 16 ≤ c.val ∧ c.val ≤ (p.offset + p.width - 1) / 16 ∧ (t.channels.get c).enabled = true

theorem State.outcomeAt_val (s : State) (readings : Tab (BitVec 12) 16) (c : Fin 16) : s.outcomeAt readings c.val =
    if (s.tables.channels.get c).enabled then some (s.outcome readings c) else none := by
  have channel : State.outcomeAt.finChannel c.val = some c := dif_pos c.isLt
  rw [State.outcomeAt, channel]
  rfl

/-- R136: within 256 bits the outcomes of a placement are those of the enabled channels it reads. -/
theorem State.mem_placementOutcomes (s : State) (readings : Tab (BitVec 12) 16) {p : Placement} (fits : p.offset + p.width ≤ 256)
    (o : ReadingOutcome) : some o ∈ placementOutcomes (s.outcomeAt readings) p ↔
      ∃ c, s.tables.Reads p c ∧ s.outcome readings c = o := by
  simp only [placementOutcomes, List.mem_filterMap, List.mem_range, Option.ite_none_right_eq_some, Option.some.injEq]
  constructor
  · rintro ⟨n, -, ⟨low, high⟩, at_n⟩
    have hn : n < 16 := by omega
    have outcome := (s.outcomeAt_val readings ⟨n, hn⟩).symm.trans at_n
    rw [Option.ite_none_right_eq_some, Option.some.injEq] at outcome
    exact ⟨⟨n, hn⟩, ⟨low, high, outcome.1⟩, outcome.2⟩
  · rintro ⟨c, ⟨low, high, enabled⟩, rfl⟩
    exact ⟨c.val, by omega, ⟨low, high⟩, by rw [s.outcomeAt_val, if_pos enabled]⟩

end Sys2Proof.Machine
end

section
namespace Sys2Proof.Machine

/-! ### The L0 placements applied (R136) -/

/-- R136: what one L0 placement makes of the record it names. -/
def Tables.appliedL0 (t : Tables) (outcome : Nat → Option ReadingOutcome) (payload : Nat) (p : Placement) (r : SigRec) : SigRec :=
  if some .opened ∈ placementOutcomes outcome p then r.marked (.suspect .opened)
  else if some .withheld ∈ placementOutcomes outcome p then r
  else t.applied payload 32 p r

/-- R136: an L0 placement writes or marks its record, unless it reads a withheld reading and no channel in OPEN. -/
def TouchesL0 (outcome : Nat → Option ReadingOutcome) (p : Placement) : Prop :=
  some .opened ∈ placementOutcomes outcome p ∨ some .withheld ∉ placementOutcomes outcome p

section
variable (outcome : Nat → Option ReadingOutcome) (payload : Nat) (w : Work) (p : Placement)

/-- An L0 placement leaves the records alone, writes its own, or marks its own. -/
theorem Work.applyL0One_eq : w.applyL0One outcome payload p =
    if some .opened ∈ placementOutcomes outcome p then w.changeAt p.addr.base (SigRec.marked (.suspect .opened))
    else if some .withheld ∈ placementOutcomes outcome p then w
    else w.applyOne payload 32 p := by
  simp only [Work.applyL0One, List.contains_iff_mem]

/-- One L0 placement changes the image alone. -/
theorem Work.applyL0One_frame :
    (w.applyL0One outcome payload p).st = { w.st with image := (w.applyL0One outcome payload p).st.image } := by
  rw [Work.applyL0One_eq]
  split
  · rfl
  split
  · rfl
  · exact (w.applyOne_frame payload 32 p).1

/-- And there it changes only the record it names. -/
theorem Work.applyL0One_image_of_ne {i : SigIx} (other : i ≠ p.addr.base) :
    (w.applyL0One outcome payload p).st.image.get i = w.st.image.get i := by
  rw [Work.applyL0One_eq]
  split
  · rw [Work.changeAt_image, if_neg other]
  split
  · rfl
  · obtain ⟨-, kept, -⟩ := w.applyOne_frame payload 32 p
    exact kept i other

theorem Work.applyL0One_image_self : (w.applyL0One outcome payload p).st.image.get p.addr.base =
    w.st.tables.appliedL0 outcome payload p (w.st.image.get p.addr.base) := by
  rw [Work.applyL0One_eq, Tables.appliedL0]
  split
  · rw [Work.changeAt_image, if_pos rfl]
  split
  · rfl
  · exact w.applyOne_image_self payload 32 p

theorem Work.applyL0One_touched_iff (i : SigIx) : (w.applyL0One outcome payload p).touched i = true ↔
    w.touched i = true ∨ (p.addr.base = i ∧ TouchesL0 outcome p) := by
  rw [Work.applyL0One_eq, TouchesL0]
  split
  next opened => simp [Work.changeAt, opened, eq_comm (a := i)]
  next sound =>
    split
    next withheld => simp [sound, withheld]
    next delivered =>
      obtain ⟨-, -, touched⟩ := w.applyOne_frame payload 32 p
      simp [touched, delivered, eq_comm (a := i)]

end

section
variable (outcome : Nat → Option ReadingOutcome) (payload : Nat) (ps : List Placement) (w : Work)

/-- The L0 placements change the image alone. -/
theorem Work.foldl_applyL0One_frame : (ps.foldl (Work.applyL0One outcome payload) w).st =
    { w.st with image := (ps.foldl (Work.applyL0One outcome payload) w).st.image } := by
  induction ps generalizing w with
  | nil => rfl
  | cons p ps ih => rw [List.foldl_cons, ih, Work.applyL0One_frame]

theorem Work.foldl_applyL0One_image_of_unnamed {i : SigIx} (unnamed : ∀ p ∈ ps, p.addr.base ≠ i) :
    (ps.foldl (Work.applyL0One outcome payload) w).st.image.get i = w.st.image.get i := by
  induction ps generalizing w with
  | nil => rfl
  | cons p ps ih =>
    obtain ⟨other, rest⟩ := List.forall_mem_cons.mp unnamed
    rw [List.foldl_cons, ih _ rest, w.applyL0One_image_of_ne outcome payload p other.symm]

/-- The records touched are those touched before, and those that a placement writes or marks. -/
theorem Work.foldl_applyL0One_touched_iff (i : SigIx) : (ps.foldl (Work.applyL0One outcome payload) w).touched i = true ↔
    w.touched i = true ∨ ∃ p ∈ ps, p.addr.base = i ∧ TouchesL0 outcome p := by
  induction ps generalizing w with
  | nil => simp
  | cons p ps ih => rw [List.foldl_cons, ih, Work.applyL0One_touched_iff, List.exists_mem_cons_iff, or_assoc]

/-- Of L0 placements that name distinct records each has its own effect, on the record as it was before. -/
theorem Work.foldl_applyL0One_image (distinct : (ps.map fun p => p.addr.base).Nodup) {p : Placement} (hp : p ∈ ps) :
    (ps.foldl (Work.applyL0One outcome payload) w).st.image.get p.addr.base =
      w.st.tables.appliedL0 outcome payload p (w.st.image.get p.addr.base) := by
  induction ps generalizing w with
  | nil => cases hp
  | cons q ps ih =>
    obtain ⟨fresh, rest⟩ := List.nodup_cons.mp distinct
    have unnamed : ∀ r ∈ ps, r.addr.base ≠ q.addr.base := fun r hr e => fresh (List.mem_map.mpr ⟨r, hr, e⟩)
    have tables : (w.applyL0One outcome payload q).st.tables = w.st.tables := by rw [Work.applyL0One_frame]
    rw [List.foldl_cons]
    rcases List.mem_cons.mp hp with rfl | later
    · rw [Work.foldl_applyL0One_image_of_unnamed _ _ _ _ unnamed, Work.applyL0One_image_self]
    · rw [ih _ rest later, tables, w.applyL0One_image_of_ne _ _ q (unnamed p later)]

end

/-! ### The record an IN placement writes (R28) -/

/-- R28, R38: a record after an IN placement wrote the number of a pattern to it. -/
def Tables.writtenRecord (t : Tables) (p : Placement) (pattern : Nat) (r : SigRec) : SigRec :=
  let number := fieldNumber p.signed p.width pattern
  { r with
    age := 0
    value := match p.conversion with
      | some c => ((t.conversions.get c).apply number).1
      | none => max (-32768) (min 32767 number)
    quality := if (match p.conversion with
        | some c => ((t.conversions.get c).apply number).2
        | none => decide (number < -32768 ∨ 32767 < number)) then .clamped else .good }

theorem Tables.applied_of_received (t : Tables) {payload len : Nat} {p : Placement} (received : p.offset + p.width ≤ 8 * len)
    (r : SigRec) : t.applied payload len p r = t.writtenRecord p (payload / 2 ^ p.offset % 2 ^ p.width) r := by
  rw [Tables.applied, if_pos received]
  cases conversion : p.conversion with
  | none =>
    rw [t.inValue_of_none conversion rfl, clampInt_eq (by norm_num)]
    simp only [Tables.writtenRecord, conversion, decide_eq_true_eq]
    rfl
  | some c =>
    rw [t.inValue_of_some conversion rfl]
    simp only [Tables.writtenRecord, conversion]
    rfl

/-! ### The hand-over to the monitors (R140) -/

theorem State.handOver_frame (d : Feed) (outcome : Nat → Option ReadingOutcome) (readings : Tab (BitVec 12) 16) (s : State) :
    s.handOver d outcome readings = { s with feedRt := (s.handOver d outcome readings).feedRt } := by
  unfold State.handOver
  split <;> rfl

/-- R140: an enabled sense channel's reading and outcome go behind those its monitor has not yet taken. -/
theorem State.handOver_feed (s t : State) (d : Feed) (readings : Tab (BitVec 12) 16) :
    (t.handOver d (s.outcomeAt readings) readings).feed d =
      if (s.tables.channels.get (feedChannel d)).enabled then
        { t.feed d with
          handovers := (t.feed d).handovers ++ [⟨readings.get (feedChannel d), s.outcome readings (feedChannel d)⟩] }
      else t.feed d := by
  rw [State.handOver, s.outcomeAt_val]
  cases (s.tables.channels.get (feedChannel d)).enabled with
  | true => exact t.onFeed_feed d _
  | false => rfl

theorem State.handOver_feed_of_ne (s : State) {d e : Feed} (h : e ≠ d) (outcome : Nat → Option ReadingOutcome)
    (readings : Tab (BitVec 12) 16) : (s.handOver d outcome readings).feed e = s.feed e := by
  unfold State.handOver
  split
  · rfl
  · exact s.onFeed_feed_of_ne d _ h

end Sys2Proof.Machine
end

section
namespace Sys2Proof.Machine

/-! ### The channels and L0 at a completion (R133, R136) -/

/-- R21: the IN placements of an L slot. -/
def Tables.lIns (t : Tables) (slot : LSlot) : List Placement := (t.lRun slot).filter fun p => p.direction == .inbound

/-- R133: the state whose channels have stepped and whose channel events are raised. -/
def State.channelsStepped (readings : Tab (BitVec 12) 16) (s : State) : State :=
  let raised := s.raiseAll (scanEvents s.tio.channels (s.steppedChannels readings))
  { s with
    tio := { s.tio with channels := s.steppedChannels readings, scanInFlight := false }
    events := raised.events, ovf := raised.ovf }

section
variable (s : State) (readings : Tab (BitVec 12) 16)

theorem State.raiseAll_steppedChannels :
    ({ s with tio := { s.tio with channels := s.steppedChannels readings, scanInFlight := false } } : State).raiseAll
      (scanEvents s.tio.channels (s.steppedChannels readings)) = s.channelsStepped readings := by
  obtain ⟨events, ovf⟩ := State.raiseAll_congr
    (s := { s with tio := { s.tio with channels := s.steppedChannels readings, scanInFlight := false } }) (t := s)
    (scanEvents s.tio.channels (s.steppedChannels readings)) rfl rfl rfl
  rw [State.raiseAll_frame, events, ovf, State.channelsStepped]

theorem State.scanChannels_eq : s.scanChannels readings = (s.tables.lIns s.tables.l0).foldl
    (Work.applyL0One (s.outcomeAt readings) (leNat (s.l0Payload readings))) (s.channelsStepped readings).work :=
  congrArg (fun u => u.work.applyL0 (s.outcomeAt readings) (s.l0Payload readings)) (s.raiseAll_steppedChannels readings)

theorem State.scanChannels_frame : (s.scanChannels readings).st =
    { s.channelsStepped readings with image := (s.scanChannels readings).st.image } := by
  rw [s.scanChannels_eq]
  exact Work.foldl_applyL0One_frame ..

theorem State.scanChannels_touched_iff (i : SigIx) : (s.scanChannels readings).touched i = true ↔
    ∃ p ∈ s.tables.lIns s.tables.l0, p.addr.base = i ∧ TouchesL0 (s.outcomeAt readings) p := by
  rw [s.scanChannels_eq, Work.foldl_applyL0One_touched_iff, State.work_touched, Bool.false_eq_true, false_or]

theorem State.scanChannels_image_of_unnamed {i : SigIx} (unnamed : ∀ p ∈ s.tables.lIns s.tables.l0, p.addr.base ≠ i) :
    (s.scanChannels readings).st.image.get i = s.image.get i := by
  rw [s.scanChannels_eq, Work.foldl_applyL0One_image_of_unnamed _ _ _ _ unnamed]
  rfl

theorem State.scanChannels_image (distinct : ((s.tables.lIns s.tables.l0).map fun p => p.addr.base).Nodup) {p : Placement}
    (hp : p ∈ s.tables.lIns s.tables.l0) : (s.scanChannels readings).st.image.get p.addr.base =
      s.tables.appliedL0 (s.outcomeAt readings) (leNat (s.l0Payload readings)) p (s.image.get p.addr.base) := by
  rw [s.scanChannels_eq, Work.foldl_applyL0One_image _ _ _ _ distinct hp]
  rfl

end

/-! ### The inputs and L1 at a completion (R134, R137) -/

/-- The part of a scan's completion up to the L1 placements (R133 to R137). -/
def State.scanTerminals (samples : BitVec 16) (readings : Tab (BitVec 12) 16) (s : State) : Work :=
  ((s.scanChannels readings).on fun u =>
    { u with tio := { u.tio with inputs := s.countedInputs samples, firstSample := false } }).applyRun
      (s.tables.lRun s.tables.l1) (l1Payload (s.countedInputs samples))

section
variable (s : State) (samples : BitVec 16) (readings : Tab (BitVec 12) 16)

/-- R135: behind the L1 placements a completion builds L2 and hands the readings over. -/
theorem State.completeScan_eq : s.work.completeScan samples readings = (s.scanTerminals samples readings).on fun u =>
    (u.buildL2.handOver .cab (s.outcomeAt readings) readings).handOver .spreader (s.outcomeAt readings) readings := by
  have tables : (s.scanChannels readings).st.tables = s.tables := by rw [s.scanChannels_frame]; rfl
  have counted : (s.scanChannels readings).st.countedInputs samples = s.countedInputs samples := by
    rw [s.scanChannels_frame]; rfl
  rw [State.scanTerminals, ← tables, ← counted]
  rfl

theorem State.scanTerminals_frame : (s.scanTerminals samples readings).st = { s.channelsStepped readings with
    tio := { s.tio with
      channels := s.steppedChannels readings, inputs := s.countedInputs samples, firstSample := false, scanInFlight := false }
    image := (s.scanTerminals samples readings).st.image } := by
  rw [State.scanTerminals, Work.applyRun_frame, Work.on_st, s.scanChannels_frame]
  rfl

/-- The records touched are those of the L1 placements, and those of the L0 placements that write or mark. -/
theorem State.scanTerminals_touched_iff (i : SigIx) : (s.scanTerminals samples readings).touched i = true ↔
    (∃ p ∈ s.tables.lIns s.tables.l1, p.addr.base = i) ∨
      ∃ p ∈ s.tables.lIns s.tables.l0, p.addr.base = i ∧ TouchesL0 (s.outcomeAt readings) p := by
  rw [State.scanTerminals, Work.applyRun_touched_iff, Work.on_touched, s.scanChannels_touched_iff, or_comm]
  simp only [Tables.lIns, mem_inbound, and_assoc]

theorem State.scanTerminals_image_of_not_l1 {i : SigIx} (unnamed : ∀ p ∈ s.tables.lIns s.tables.l1, p.addr.base ≠ i) :
    (s.scanTerminals samples readings).st.image.get i = (s.scanChannels readings).st.image.get i :=
  Work.applyRun_image_of_unnamed _ (fun p hp hin => unnamed p (mem_inbound.mpr ⟨hp, hin⟩)) _

theorem State.scanTerminals_image_of_unnamed {i : SigIx}
    (unnamed : ∀ p ∈ s.tables.lIns s.tables.l0 ++ s.tables.lIns s.tables.l1, p.addr.base ≠ i) :
    (s.scanTerminals samples readings).st.image.get i = s.image.get i := by
  obtain ⟨l0, l1⟩ := List.forall_mem_append.mp unnamed
  rw [s.scanTerminals_image_of_not_l1 samples readings l1, s.scanChannels_image_of_unnamed readings l0]

variable {p : Placement}
  (distinct : ((s.tables.lIns s.tables.l0 ++ s.tables.lIns s.tables.l1).map fun p => p.addr.base).Nodup)
include distinct

theorem State.scanTerminals_image_l0 (hp : p ∈ s.tables.lIns s.tables.l0) :
    (s.scanTerminals samples readings).st.image.get p.addr.base =
      s.tables.appliedL0 (s.outcomeAt readings) (leNat (s.l0Payload readings)) p (s.image.get p.addr.base) := by
  rw [List.map_append, List.nodup_append] at distinct
  obtain ⟨l0, -, apart⟩ := distinct
  have unnamed : ∀ q ∈ s.tables.lIns s.tables.l1, q.addr.base ≠ p.addr.base := fun q hq =>
    (apart _ (List.mem_map_of_mem hp) _ (List.mem_map_of_mem hq)).symm
  rw [s.scanTerminals_image_of_not_l1 samples readings unnamed, s.scanChannels_image readings l0 hp]

theorem State.scanTerminals_image_l1 (hp : p ∈ s.tables.lIns s.tables.l1) (fits : p.offset + p.width ≤ 16) :
    (s.scanTerminals samples readings).st.image.get p.addr.base = s.tables.writtenRecord p
      (Nat.ofBits (fun b : Fin 16 => ((s.countedInputs samples).get b).level) / 2 ^ p.offset % 2 ^ p.width)
      (s.image.get p.addr.base) := by
  rw [List.map_append, List.nodup_append] at distinct
  obtain ⟨-, l1, apart⟩ := distinct
  have unnamed : ∀ q ∈ s.tables.lIns s.tables.l0, q.addr.base ≠ p.addr.base := fun q hq =>
    apart _ (List.mem_map_of_mem hq) _ (List.mem_map_of_mem hp)
  have tables : (s.scanChannels readings).st.tables = s.tables := by rw [s.scanChannels_frame]; rfl
  obtain ⟨mem, hin⟩ := mem_inbound.mp hp
  rw [State.scanTerminals, Work.applyRun_image l1 mem hin, Work.on_st, tables, s.scanChannels_image_of_unnamed readings unnamed,
    Tables.applied_of_received _ (by rw [length_l1Payload]; exact fits), leNat_l1Payload]

end

end Sys2Proof.Machine
end

section
namespace Sys2Proof.Machine

/-! ### What an L0 placement does, by the outcomes of its channels (R136) -/

section
variable {s : State} {readings : Tab (BitVec 12) 16} {p : Placement} (fits : p.offset + p.width ≤ 256)
include fits

theorem State.appliedL0_of_opened (opened : ∃ c, s.tables.Reads p c ∧ s.outcome readings c = .opened) (payload : Nat) (r : SigRec) :
    s.tables.appliedL0 (s.outcomeAt readings) payload p r = { r with quality := .suspect .opened } :=
  if_pos ((s.mem_placementOutcomes readings fits _).mpr opened)

theorem State.appliedL0_of_withheld (sound : ∀ c, s.tables.Reads p c → s.outcome readings c ≠ .opened)
    (withheld : ∃ c, s.tables.Reads p c ∧ s.outcome readings c = .withheld) (payload : Nat) (r : SigRec) :
    s.tables.appliedL0 (s.outcomeAt readings) payload p r = r := by
  have closed : some .opened ∉ placementOutcomes (s.outcomeAt readings) p := fun h => by
    obtain ⟨c, reads, opened⟩ := (s.mem_placementOutcomes readings fits _).mp h
    exact sound c reads opened
  rw [Tables.appliedL0, if_neg closed, if_pos ((s.mem_placementOutcomes readings fits _).mpr withheld)]

theorem State.appliedL0_of_delivered (delivered : ∀ c, s.tables.Reads p c → s.outcome readings c = .delivered) (payload : Nat)
    (r : SigRec) : s.tables.appliedL0 (s.outcomeAt readings) payload p r =
      s.tables.writtenRecord p (payload / 2 ^ p.offset % 2 ^ p.width) r := by
  have only : ∀ o, o ≠ .delivered → some o ∉ placementOutcomes (s.outcomeAt readings) p := fun o other h => by
    obtain ⟨c, reads, rfl⟩ := (s.mem_placementOutcomes readings fits _).mp h
    exact other (delivered c reads)
  rw [Tables.appliedL0, if_neg (only _ (by decide)), if_neg (only _ (by decide)), Tables.applied_of_received _ fits]

theorem State.touchesL0_iff : TouchesL0 (s.outcomeAt readings) p ↔
    (∃ c, s.tables.Reads p c ∧ s.outcome readings c = .opened) ∨
      ∀ c, s.tables.Reads p c → s.outcome readings c ≠ .withheld := by
  rw [TouchesL0, s.mem_placementOutcomes readings fits, s.mem_placementOutcomes readings fits]
  simp only [not_exists, not_and, ne_eq]

end

/-! ### The completion of a scan (R135) -/

theorem exec_scanCompletion {s : State} (awake : s.awake) (run : s.operating = .run) (inFlight : s.tio.scanInFlight = true)
    (samples : BitVec 16) (readings : Tab (BitVec 12) 16) :
    exec (.scanCompletion samples readings) s = .next (s.work.completeScan samples readings).close :=
  State.occurs_of _ awake (by rw [run, inFlight]; rfl)

section
variable (s : State) (samples : BitVec 16) (readings : Tab (BitVec 12) 16)

/-- R138, R140: behind the L1 placements a completion changes the relays and the monitors' runtime alone. -/
theorem State.completeScan_frame : (s.work.completeScan samples readings).st = { (s.scanTerminals samples readings).st with
    tio := (s.scanTerminals samples readings).st.buildL2.tio
    feedRt := (s.work.completeScan samples readings).st.feedRt } := by
  rw [s.completeScan_eq, Work.on_st, State.handOver_frame, State.handOver_frame]
  rfl

theorem State.completeScan_touched : (s.work.completeScan samples readings).touched = (s.scanTerminals samples readings).touched := by
  rw [s.completeScan_eq, Work.on_touched]

theorem State.completeScan_image :
    (s.work.completeScan samples readings).st.image = (s.scanTerminals samples readings).st.image := by
  rw [s.completeScan_frame]

theorem State.completeScan_channels : (s.work.completeScan samples readings).st.tio.channels = s.steppedChannels readings := by
  rw [s.completeScan_frame, s.scanTerminals_frame]
  rfl

theorem State.completeScan_inputs : (s.work.completeScan samples readings).st.tio.inputs = s.countedInputs samples := by
  rw [s.completeScan_frame, s.scanTerminals_frame]
  rfl

/-- R135: a completion changes the terminals, the image, the monitors' runtime, the queue and OVF alone. -/
theorem State.completeScan_changes :
    let u := (s.work.completeScan samples readings).st
    let raised := s.raiseAll (scanEvents s.tio.channels u.tio.channels)
    u = { s with
      tio := { s.tio with
        channels := u.tio.channels, inputs := u.tio.inputs, firstSample := false, relays := u.tio.relays, scanInFlight := false }
      image := u.image, feedRt := u.feedRt, events := raised.events, ovf := raised.ovf } := by
  dsimp only
  rw [s.completeScan_channels, s.completeScan_inputs, s.completeScan_frame, s.scanTerminals_frame]
  rfl

/-- R138: the relays follow L2 as it is built from the image that the placements have left. -/
theorem State.completeScan_relays {i : Nat} (hi : i < 8) : (s.work.completeScan samples readings).st.tio.relays.getLsbD i =
    ((s.work.completeScan samples readings).st.buildNat (s.tables.lRun s.tables.l2)).testBit i := by
  have tables : (s.work.completeScan samples readings).st.tables = s.tables := by
    rw [s.completeScan_frame, s.scanTerminals_frame]; rfl
  have built := State.buildL2_relays_of_same (s := (s.scanTerminals samples readings).st)
    (t := (s.work.completeScan samples readings).st) (by rw [s.completeScan_image]) (by rw [s.completeScan_frame])
    (by rw [s.completeScan_frame]) hi
  rw [tables] at built
  rw [← built, s.completeScan_frame]

/-- R140: each monitor is handed the reading of its channel, if that is enabled. -/
theorem State.completeScan_feed (d : Feed) : (s.work.completeScan samples readings).st.feed d =
    if (s.tables.channels.get (feedChannel d)).enabled then
      { s.feed d with
        handovers := (s.feed d).handovers ++ [⟨readings.get (feedChannel d), s.outcome readings (feedChannel d)⟩] }
    else s.feed d := by
  have before : (s.scanTerminals samples readings).st.buildL2.feed d = s.feed d := by rw [s.scanTerminals_frame]; rfl
  rw [s.completeScan_eq, Work.on_st]
  cases d with
  | spreader => rw [s.handOver_feed, State.handOver_feed_of_ne _ (by decide), before]
  | cab => rw [State.handOver_feed_of_ne _ (by decide), s.handOver_feed, before]

end

/-- Settles O42: the completion's stages by their equations, an L0 placement by the outcomes of its channels, and the end of the event
by the records that the placements touch. -/
theorem scanCompletionDelivers : Obligations.ScanCompletionDelivers := by
  intro samples readings s awake run inFlight ins distinct fits0 fits1 outcome reads written
  have image : (s.work.completeScan samples readings).close.image = (s.scanTerminals samples readings).st.image := by
    rw [Work.close_image, s.completeScan_image]
  have channels : (s.work.completeScan samples readings).close.tio.channels = s.steppedChannels readings := by
    rw [Work.close_tio, s.completeScan_channels]
  have inputs : (s.work.completeScan samples readings).close.tio.inputs = s.countedInputs samples := by
    rw [Work.close_tio, s.completeScan_inputs]
  refine ⟨_, exec_scanCompletion awake run inFlight samples readings, fun c => ?_, fun i => ?_, fun p hp => ?_, fun p hp => ?_,
    fun i unnamed => ?_, fun i hi => ?_, fun d => ?_, ?_⟩
  · rw [channels, State.steppedChannels, Tab.get_mapIdx]
  · rw [inputs, State.countedInputs, Tab.get_mapIdx]
  · obtain ⟨-, fits⟩ := fits0 p hp
    rw [image, s.scanTerminals_image_l0 samples readings distinct hp]
    refine ⟨fun opened => State.appliedL0_of_opened fits opened _ _, fun sound withheld =>
      State.appliedL0_of_withheld fits sound withheld _ _, fun delivered => ?_⟩
    rw [State.appliedL0_of_delivered fits delivered, s.leNat_l0Payload]
    rfl
  · rw [image, inputs, s.scanTerminals_image_l1 samples readings distinct hp (fits1 p hp)]
    rfl
  · rw [image, s.scanTerminals_image_of_unnamed samples readings unnamed]
  · rw [Work.close_tio, s.completeScan_relays samples readings hi]
    exact congrArg (Nat.testBit · i) (State.buildNat_congr (Work.close_image _).symm (Work.close_tables _).symm
      (Work.close_gateRt _).symm _)
  · rw [State.feed, Work.close_feedRt]
    exact s.completeScan_feed samples readings d
  · refine Work.ends_of_eq _ ?_ fun i => ?_
    · rw [Work.close_tio, Work.close_image, Work.close_feedRt]
      exact (s.completeScan_changes samples readings).symm
    · rw [s.completeScan_touched, s.scanTerminals_touched_iff]
      refine or_congr Iff.rfl (exists_congr fun p => and_congr_right fun hp => and_congr_right fun _ => ?_)
      obtain ⟨-, fits⟩ := fits0 p hp
      exact State.touchesL0_iff fits

end Sys2Proof.Machine
end

/-! # Proofs about the feed monitors (R143 to R148)

The class of a reading and the tables by which a monitor steps come first, then the taking of a reading, which puts a step, its event and
its order into the state. -/

section
namespace Sys2Proof.Machine

/-! ### The class of a reading (R145) -/

section
variable {e : FeedEntry} {r : BitVec 12}

theorem classOf_withheld (e : FeedEntry) (r : BitVec 12) : classOf e ⟨r, .withheld⟩ = .below := rfl

theorem classOf_opened (e : FeedEntry) (r : BitVec 12) : classOf e ⟨r, .opened⟩ = .below := rfl

theorem classOf_delivered_below (under : r.toNat < e.low) : classOf e ⟨r, .delivered⟩ = .below := if_pos under

theorem classOf_delivered_between (reaches : e.low ≤ r.toNat) (under : r.toNat < e.recover) :
    classOf e ⟨r, .delivered⟩ = .between := (if_neg reaches.not_gt).trans (if_pos under)

theorem classOf_delivered_above (low : e.low ≤ r.toNat) (recover : e.recover ≤ r.toNat) :
    classOf e ⟨r, .delivered⟩ = .above := (if_neg low.not_gt).trans (if_neg recover.not_gt)

/-- R145: equal thresholds leave no room between them. -/
theorem classOf_ne_between (equal : e.recover = e.low) (r : BitVec 12) (o : ReadingOutcome) : classOf e ⟨r, o⟩ ≠ .between := by
  cases o with
  | withheld => rw [classOf_withheld]; decide
  | opened => rw [classOf_opened]; decide
  | delivered =>
    obtain under | reaches := Nat.lt_or_ge r.toNat e.low
    · rw [classOf_delivered_below under]; decide
    · rw [classOf_delivered_above reaches (equal ▸ reaches)]; decide

end

/-! ### The tables of a monitor (R146, R147) -/

section
variable {e : FeedEntry} (c : ReadingClass) (count : Nat)

/-- R146: a good monitor counts the first reading below, which is the last one if NL is 1. -/
theorem feedStep_good (least : 1 ≤ e.nL) : feedStep e c .good count =
    if c = .below then (if e.nL = 1 then (.low, 0) else (.dipping, 1)) else (.good, 0) := by
  have single : e.nL ≤ 1 ↔ e.nL = 1 := by omega
  cases c with
  | below => simp only [feedStep, single, if_true]
  | between | above => rfl

/-- R146: a dipping monitor counts a further reading below; any other makes it good. -/
theorem feedStep_dipping : feedStep e c .dipping count =
    if c = .below then (if e.nL ≤ count + 1 then (.low, 0) else (.dipping, count + 1)) else (.good, 0) := by
  cases c <;> rfl

/-- R147: a low monitor counts the first reading above, which is the last one if NG is 1. -/
theorem feedStep_low (least : 1 ≤ e.nG) : feedStep e c .low count =
    if c = .above then (if e.nG = 1 then (.good, 0) else (.recovering, 1)) else (.low, 0) := by
  have single : e.nG ≤ 1 ↔ e.nG = 1 := by omega
  cases c with
  | above => simp only [feedStep, single, if_true]
  | below | between => rfl

/-- R147: a recovering monitor counts a further reading above; any other makes it low. -/
theorem feedStep_recovering : feedStep e c .recovering count =
    if c = .above then (if e.nG ≤ count + 1 then (.good, 0) else (.recovering, count + 1)) else (.low, 0) := by
  cases c <;> rfl

end

/-! ### A reading taken (R144, R146 to R148) -/

/-- Two changes of one monitor are one change. -/
theorem State.onFeed_onFeed (s : State) (d : Feed) (f g : FeedRt → FeedRt) :
    (s.onFeed d f).onFeed d g = s.onFeed d fun m => g (f m) := by
  refine congrArg (fun table => { s with feedRt := table }) (Tab.ext_get fun i => ?_)
  simp only [State.onFeed, Tab.get_modify]
  split <;> rfl

/-- R146 to R148: the part after its monitor took a reading, which moved it from a state to a state and count, with what that raises and
hands to the port. -/
def State.monitorMoved (d : Feed) (r : BitVec 12) (rest : List Handover) (before : FeedState) (after : FeedState × Nat) (s : State) :
    State :=
  match feedOutput d before after.1 r with
  | none => s.onFeed d fun f => { f with state := after.1, count := after.2, handovers := rest }
  | some (event, order) => (s.onFeed d fun f =>
      { f with state := after.1, count := after.2, handovers := rest, orders := f.orders ++ [order] }).raise event

section
variable {d : Feed} {h : Handover} {rest : List Handover} {s : State}

/-- R144: a disabled monitor takes no step on its reading. -/
theorem State.takeReading_disabled (handed : (s.feed d).handovers = h :: rest)
    (disabled : (s.tables.feeds.get (feedIx d)).enabled = false) :
    s.takeReading d = s.onFeed d fun f => { f with handovers := rest } := by
  simp only [State.takeReading, handed, disabled]
  rfl

/-- R146: an enabled monitor moves by its tables on the class of its reading. -/
theorem State.takeReading_enabled (handed : (s.feed d).handovers = h :: rest)
    (enabled : (s.tables.feeds.get (feedIx d)).enabled = true) :
    s.takeReading d = s.monitorMoved d h.reading rest (s.feed d).state
      (feedStep (s.tables.feeds.get (feedIx d)) (classOf (s.tables.feeds.get (feedIx d)) h) (s.feed d).state (s.feed d).count) := by
  simp only [State.takeReading, handed, enabled, if_true, State.stepFeed, State.onFeed_feed, State.onFeed_tables, State.onFeed_onFeed]
  rfl

theorem exec_feedReading (awake : s.awake) (run : s.operating = .run) (handed : (s.feed d).handovers = h :: rest) :
    exec (.feedReading d) s = .next (s.takeReading d) := State.occurs_of _ awake (by rw [run, handed]; rfl)

end

/-- Settles O43: the reading taken moves the monitor by the row of its state, whose outcomes raise and order what `feedOutput` says. -/
theorem feedReadingStepsTheMonitor : Obligations.FeedReadingStepsTheMonitor := by
  refine ⟨fun d h rest s awake run handed => ?_, fun e r => ⟨classOf_withheld e r, classOf_opened e r, classOf_delivered_below,
    classOf_delivered_between, classOf_delivered_above, classOf_ne_between (r := r)⟩⟩
  intro e f c goes low good answers
  have taken : answers (s.takeReading d) := exec_feedReading awake run handed
  refine ⟨fun disabled => s.takeReading_disabled handed disabled ▸ taken, fun enabled leastL leastG => ?_⟩
  rw [s.takeReading_enabled handed enabled] at taken
  refine ⟨fun state => ?_, fun state => ?_, fun state => ?_, fun state => ?_⟩ <;> rw [state] at taken
  · rw [feedStep_good _ _ leastL] at taken
    split_ifs at taken ⊢ <;> exact taken
  · rw [feedStep_dipping] at taken
    split_ifs at taken ⊢ <;> exact taken
  · rw [feedStep_low _ _ leastG] at taken
    split_ifs at taken ⊢ <;> exact taken
  · rw [feedStep_recovering] at taken
    split_ifs at taken ⊢ <;> exact taken

end Sys2Proof.Machine
end

/-! # Proofs about the part at rest in CONFIG (R154)

`Resting` gathers what R154 speaks of, and `State.Rests` says that in CONFIG all of it is at rest. The entries into CONFIG bring it
to rest, and RUN owes nothing. In CONFIG no event of the master lines, the gates or the terminals occurs, because each asks for a port
that is not OFF, for RUN, or for something handed over; what is left are the festoon line and the management commands. -/

section
namespace Sys2Proof.Machine

/-! ### What rests in CONFIG -/

/-- What R154 speaks of: the gates, the terminals, the ports, the timers of the run, the monitors, the slots and the forces. -/
@[ext] structure Resting where
  operating : Operating
  gates : Tab GateRt 32
  tio : TrolleyIO
  sp : PortState
  cp : PortState
  sweepTimer : Option Nat
  feeds : Tab FeedRt 2
  slots : Tab FestoonRt 16
  forces : Tab (Option Int) 512

/-- What of a state R154 speaks of. -/
def State.resting (s : State) : Resting :=
  ⟨s.operating, s.gateRt, s.tio, s.sp.state, s.cp.state, s.sweepTimer, s.feedRt, s.fp.slots, s.image.map SigRec.force⟩

/-- R154: CONFIG at rest. -/
def Resting.atRest : Resting :=
  ⟨.config, .fill 32 .closed, .atRest, .off, .off, none, .fill 2 .fresh, .fill 16 .idle, .fill 512 none⟩

/-- R154: in CONFIG the part is at rest. -/
def State.Rests (s : State) : Prop := s.operating = .config → s.resting = .atRest

theorem RestInv.rests {s : State} (h : RestInv s) : s.Rests := fun config =>
  Resting.ext config (Tab.ext_get fun g => by rw [Resting.atRest, Tab.get_fill]; exact h.gates config g) (h.trolley config)
    (h.ports config).1 (h.ports config).2 (h.sweep config)
    (Tab.ext_get fun d => by rw [Resting.atRest, Tab.get_fill]; exact h.feeds config d)
    (Tab.ext_get fun k => by rw [Resting.atRest, Tab.get_fill]; exact h.festoon config k)
    (Tab.ext_get fun i => by
      rw [Resting.atRest, Tab.get_fill]
      exact (Tab.get_map _ _ _).trans (h.forces config i))

section
variable {s t : State}

/-- The force parts of an image at rest. -/
theorem State.force_of_resting (rest : s.resting = .atRest) (i : SigIx) : (s.image.get i).force = none := by
  have forces := congrArg (fun x => x.forces.get i) rest
  simpa only [State.resting, Resting.atRest, Tab.get_map, Tab.get_fill] using forces

theorem State.Rests.restInv (h : s.Rests) : RestInv s where
  gates config g := (congrArg (fun x => x.gates.get g) (h config)).trans (Tab.get_fill _ _)
  trolley config := congrArg Resting.tio (h config)
  ports config := ⟨congrArg Resting.sp (h config), congrArg Resting.cp (h config)⟩
  sweep config := congrArg Resting.sweepTimer (h config)
  feeds config d := (congrArg (fun x => x.feeds.get d) (h config)).trans (Tab.get_fill _ _)
  festoon config k := (congrArg (fun x => x.slots.get k) (h config)).trans (Tab.get_fill _ _)
  forces config := State.force_of_resting (h config)

theorem State.Rests.of_same (h : s.Rests) (same : t.resting = s.resting) : t.Rests := fun config =>
  same.trans (h ((congrArg Resting.operating same).symm.trans config))

theorem State.rests_of_run (run : s.operating = .run) : s.Rests := fun config => Operating.noConfusion (run.symm.trans config)

theorem State.run_of_not_config (h : s.operating ≠ .config) : s.operating = .run := by
  cases operating : s.operating with
  | config => exact absurd operating h
  | run => rfl

/-- A master port that is not OFF is a port in RUN. -/
theorem State.Rests.run_of_port (h : s.Rests) (l : MasterLine) (on : (s.port l).state ≠ .off) : s.operating = .run := by
  refine State.run_of_not_config fun config => on ?_
  cases l with
  | sp => exact (h.restInv.ports config).1
  | cp => exact (h.restInv.ports config).2

/-- What a monitor has handed to its port is handed over in RUN. -/
theorem State.Rests.run_of_order (h : s.Rests) {l : MasterLine} {o : FeedOrder} (order : s.nextOrder l = some o) :
    s.operating = .run := by
  refine State.run_of_not_config fun config => ?_
  have fresh : s.feed (feedOf l) = .fresh := h.restInv.feeds config _
  rw [State.nextOrder, fresh] at order
  exact nomatch order

/-- A stale timer runs in RUN. -/
theorem State.Rests.run_of_timed (h : s.Rests) {k : SlotIx} (timed : (s.fp.slots.get k).staleTimer.isSome = true) :
    s.operating = .run := by
  refine State.run_of_not_config fun config => ?_
  rw [h.restInv.festoon config k] at timed
  exact Bool.noConfusion timed

end

/-! ### What leaves the part at rest -/

section
variable (s : State)

@[simp] theorem State.resting_setLink (l : Line) (k : Link) : (s.setLink l k).resting = s.resting := by cases l <;> rfl
@[simp] theorem State.resting_setPhase (l : Line) (p : LinePhase) : (s.setPhase l p).resting = s.resting := s.resting_setLink l _

@[simp] theorem State.resting_judged_scoreGood (l : Line) : ((s.judged l).scoreGood l).resting = s.resting := by
  rw [(State.goodScored l s).frame]
  exact s.resting_setLink l _

@[simp] theorem State.resting_judged_scoreError (l : Line) : ((s.judged l).scoreError l).resting = s.resting := by
  rw [(State.errorScored l s).frame]
  exact s.resting_setLink l _

end

/-- What only reports leaves everything at rest. -/
theorem State.Reported.resting {s t : State} (h : s.Reported t) : t.resting = s.resting := by
  obtain ⟨events, ovf, watchLast, rfl, -⟩ := h
  rfl

/-- A change of the image that keeps every force part. -/
theorem State.resting_setImage (s : State) {image : Tab SigRec 512} (forces : ∀ i, (image.get i).force = (s.image.get i).force) :
    State.resting { s with image := image } = s.resting :=
  Resting.ext rfl rfl rfl rfl rfl rfl rfl rfl (Tab.ext_get fun i => by simpa only [State.resting, Tab.get_map] using forces i)

theorem State.resting_tick (s : State) : s.tick.resting = s.resting :=
  s.resting_setImage (image := s.image.map SigRec.aged) fun i => by rw [Tab.get_map]; rfl

/-! ### What puts the part at rest (R153, R161, R163) -/

theorem State.rests_powerOn (strap : BitVec 5) (q : List Instr) : (State.powerOn strap q).Rests := fun _ =>
  Resting.ext rfl rfl rfl rfl rfl rfl rfl rfl (Tab.ext_get fun i => by
    simp [State.resting, Resting.atRest, State.powerOn, SigRec.absent])

theorem State.rests_toConfig (s : State) : s.toConfig.Rests := fun _ => by
  refine Resting.ext ?_ ?_ ?_ ?_ ?_ ?_ ?_ ?_ (Tab.ext_get fun i => ?_)
  case refine_9 =>
    simp only [State.resting, Resting.atRest, Tab.get_map, Tab.get_fill, State.toConfig_image]
    split <;> rfl
  all_goals rw [s.toConfig_eq]; rfl

theorem State.rests_toRun (s : State) : s.toRun.Rests := State.rests_of_run (congrArg Hub.operating s.hub_toRun)

theorem State.rests_warmRestart (s : State) : s.warmRestart.Rests := by
  unfold State.warmRestart
  simp only
  split
  · exact State.rests_toRun _
  · exact State.rests_toConfig _

section
variable {s : State}

/-- R153: the reset input drops what is in flight, and keeps at rest what is. -/
theorem State.Rests.holdReset (h : s.Rests) : s.holdReset.Rests := fun config => by
  have rest := h config
  have trolley : s.tio = .atRest := congrArg Resting.tio rest
  have feeds : s.feedRt = .fill 2 .fresh := congrArg Resting.feeds rest
  have held : s.holdReset.resting = { s.resting with
      tio := { s.tio with relays := 0, scanInFlight := false, l2Requests := 0 }
      feeds := s.feedRt.map fun f => { f with handovers := [], orders := [] } } := rfl
  rw [held, rest, trolley, feeds]
  rfl

/-- R127, R162: a reception that begins leaves the part at rest, unless a pending restart takes effect. -/
theorem State.Rests.beginReception (h : s.Rests) : s.beginReception.Rests := by
  by_cases rested : s.fp.link.phase = .rested
  · cases pending : s.fp.restartPending with
    | false =>
      rw [State.beginReception_of_rested rested pending]
      exact h.of_same rfl
    | true =>
      rw [State.beginReception_of_restart rested pending]
      exact (State.rests_warmRestart _).of_same (State.resting_setPhase _ _ _)
  · rwa [State.beginReception_of_not_rested rested]

theorem State.Rests.festoonGood (h : s.Rests) : s.festoonGood.Rests :=
  h.beginReception.of_same (State.resting_judged_scoreGood _ _)

theorem State.Rests.festoonError (h : s.Rests) : s.festoonError.Rests := by
  unfold State.festoonError
  simp only
  split
  · exact h.beginReception.of_same ((State.reported_raise _ _).resting.trans (State.resting_setPhase _ .fp .ignoring))
  · exact h.beginReception.of_same (State.resting_judged_scoreError _ _)

/-- R123: DATA is accepted in RUN. -/
theorem State.Rests.takeData (h : s.Rests) (f : Frame) : (s.takeData f).Rests := by
  unfold State.takeData
  split
  · exact h
  · next k found =>
    obtain ⟨⟨run, -⟩, -⟩ := State.festoonDataSlot_eq_some.mp found
    have same : (s.festoonGood.work.acceptFestoon k f.payload).close.qualifiers = s.beginReception.qualifiers := by simp
    exact State.rests_of_run ((congrArg Qualifiers.operating same).trans run)

theorem State.Rests.takePoll (h : s.Rests) (f : Frame) : (s.takePoll f).Rests := by
  unfold State.takePoll
  split
  · exact h
  · exact h.festoonGood.of_same rfl

theorem State.resting_beginAnswer (s : State) : s.beginAnswer.resting = s.resting := by
  unfold State.beginAnswer
  split <;> rfl

theorem State.resting_beginReply (s : State) : s.beginReply.resting = s.resting := by
  unfold State.beginReply
  split <;> rfl

end

end Sys2Proof.Machine
end

section
namespace Sys2Proof.Machine

/-! ### Management commands (R15 to R17, R155, R158, R161, R162, R170) -/

/-- A management command leaves the part at rest in CONFIG. -/
def KeepsRest (command : Work → Served) : Prop := ∀ w : Work, w.st.Rests → (command w).work.st.Rests

theorem keepsRest_of_same {command : Work → Served} (same : ∀ w, (command w).work.st.resting = w.st.resting) : KeepsRest command :=
  fun w h => h.of_same (same w)

theorem Work.enterConfig_keepsRest : KeepsRest Work.enterConfig := fun w h => by
  unfold Work.enterConfig
  split
  · exact h
  · exact State.rests_toConfig _

theorem Work.enterRun_keepsRest : KeepsRest Work.enterRun := fun w h => by
  unfold Work.enterRun
  split
  · exact h
  · split
    · exact h
    · exact State.rests_toRun _

/-- R155: a write clears records at most, whose force parts stay. -/
theorem State.resting_acceptWrite (s : State) (table : TableId) (i : Nat) (t : Tables) :
    (s.acceptWrite table i t).resting = s.resting := by
  unfold State.acceptWrite
  split
  · split <;> rfl
  · refine s.resting_setImage (image := (s.leavePanel t).image) fun i => ?_
    rw [State.leavePanel, Tab.get_mapIdx]
    split <;> rfl
  all_goals rfl

theorem Work.writeTable_keepsRest (req : List Byte) : KeepsRest (Work.writeTable req) := keepsRest_of_same fun w => by
  unfold Work.writeTable
  split
  · rfl
  · split
    · rfl
    · simp only
      split
      · rfl
      · exact State.resting_acceptWrite _ _ _ _

/-- R15: a written record keeps its force part. -/
theorem Work.resting_writeSignal (index : Nat) (value : Int) (w : Work) :
    (w.writeSignal index value).work.st.resting = w.st.resting := by
  unfold Work.writeSignal
  split
  · rfl
  · split
    · refine w.st.resting_setImage fun j => ?_
      rw [Tab.get_modify]
      split
      · next here => rw [here]; rfl
      · rfl
    · rfl

/-- R16: no signal is forced in CONFIG. -/
theorem Work.force_keepsRest (index : Nat) (value : Int) : KeepsRest (Work.force index value) := fun w h => by
  cases operating : w.st.operating with
  | config =>
    unfold Work.force
    rw [operating]
    exact h
  | run =>
    refine State.rests_of_run ?_
    rw [Work.force_frame]
    exact operating

/-- R17: a released record has no force part, and in CONFIG none had. -/
theorem Work.release_keepsRest (index : Nat) : KeepsRest (Work.release index) := fun w h => by
  cases operating : w.st.operating with
  | config =>
    unfold Work.release
    split
    · exact h
    · next i _ =>
      have bare : ¬(w.st.image.get i).force.isSome = true := by simp [h.restInv.forces operating i]
      simpa only [if_neg bare] using h
  | run =>
    refine State.rests_of_run ?_
    rw [Work.release_frame]
    exact operating

theorem Work.releaseAll_keepsRest : KeepsRest Work.releaseAll := fun w h config => by
  have rest := h config
  refine Eq.trans (w.st.resting_setImage fun i => ?_) rest
  rw [Tab.get_mapIdx]
  split
  · exact (State.force_of_resting rest i).symm
  · rfl

theorem Work.resting_sendOnce (line slot : Nat) (w : Work) : (w.sendOnce line slot).work.st.resting = w.st.resting := by
  unfold Work.sendOnce
  split
  · rfl
  split
  · split
    · rfl
    · simp only; split <;> rfl
  · rfl

theorem State.Rests.serve {s : State} (h : s.Rests) {command : Work → Served} (hc : KeepsRest command) (tag : BitVec 6) (code : Nat) :
    (s.serve tag code command).Rests :=
  (hc s.festoonGood.work h.festoonGood).of_same (Work.reported_close _).resting

/-! ### Every command -/

section
variable {s t : State} {possible : Bool} {next : State}

theorem State.Rests.of_occurs (h : s.Rests) (hn : possible = true → next.Rests) (ht : s.occurs possible next = .next t) : t.Rests :=
  State.keeps_of_occurs (P := State.Rests) h hn ht

theorem State.Rests.of_occurs_same (h : s.Rests) (same : next.resting = s.resting) (ht : s.occurs possible next = .next t) : t.Rests :=
  h.of_occurs (fun _ => h.of_same same) ht

/-- An event that occurs in RUN alone, and leaves the part in RUN. -/
theorem State.Rests.of_occurs_run (h : s.Rests) (run : possible = true → s.operating = .run) (same : next.hub = s.hub)
    (ht : s.occurs possible next = .next t) : t.Rests :=
  h.of_occurs (fun occurs => State.rests_of_run ((congrArg Hub.operating same).trans (run occurs))) ht

theorem State.Rests.of_manage (h : s.Rests) {tag : BitVec 6} {code need : Nat} {req : List Byte} {command : Work → Served}
    (hc : KeepsRest command) (ht : s.manage tag code need req command = .next t) : t.Rests := by
  refine h.of_occurs (fun _ => h.serve (fun w rests => ?_) tag code) ht
  unfold withRequest
  split
  · exact rests
  · exact hc w rests

end

/-- A master port in a scoring state is not OFF (R77). -/
theorem State.on_of_receives {s : State} {l : MasterLine} (h : s.masterReceives l = true) : (s.port l).state ≠ .off := fun off => by
  cases l <;> simp_all [State.masterReceives, State.scores, State.port, masterLine]

/-- A port whose turn begins or goes on is CYCLING (R88, R89). -/
theorem State.on_of_turn {s : State} {l : MasterLine} (h : (s.dueOut l).isSome = true ∨ (s.sendingOut l).isSome = true ∨
    (s.dueIn l).isSome = true ∨ (s.polling l).isSome = true ∨ (s.waitingFor l).isSome = true) : (s.port l).state ≠ .off := fun off => by
  simp [State.dueOut, State.sendingOut, State.dueIn, State.polling, State.waitingFor, off] at h

/-- Every command leaves CONFIG at rest: those of the master lines, the gates and the terminals occur in RUN alone. -/
theorem exec_keeps_rest {c : Instr} {s t : State} (h : s.Rests) (ht : exec c s = .next t) : t.Rests := by
  cases c with
  | powerOn strap | resetInputRelease strap =>
    obtain rfl := Host.Outcome.next.inj ht
    exact State.rests_powerOn _ _
  | resetInputAssert =>
    obtain rfl := Host.Outcome.next.inj ht
    exact h.holdReset
  | ageTimerExpiry => exact h.of_occurs_same s.resting_tick ht
  | warmRestart => exact h.of_occurs (fun _ => (State.rests_warmRestart s).of_same (State.resting_setPhase _ _ _)) ht
  | status tag req | restart tag req | readEvents tag req => exact h.of_manage (keepsRest_of_same fun _ => rfl) ht
  | enterConfig tag req => exact h.of_manage Work.enterConfig_keepsRest ht
  | enterRun tag req => exact h.of_manage Work.enterRun_keepsRest ht
  | readTable tag req => exact h.of_manage (keepsRest_of_same fun w => by rw [Work.readTable_frame]; rfl) ht
  | writeTable tag req => exact h.of_manage (Work.writeTable_keepsRest req) ht
  | readSignals tag req => exact h.of_manage (keepsRest_of_same fun w => by rw [Work.readSignals_work]) ht
  | writeSignal tag req => exact h.of_manage (keepsRest_of_same (Work.resting_writeSignal _ _)) ht
  | force tag req => exact h.of_manage (Work.force_keepsRest _ _) ht
  | release tag req => exact h.of_manage (Work.release_keepsRest _) ht
  | releaseAll tag req => exact h.of_manage Work.releaseAll_keepsRest ht
  | sendOnce tag req => exact h.of_manage (keepsRest_of_same (Work.resting_sendOnce _ _)) ht
  | unknownCommand tag payload => exact h.of_occurs (fun _ => h.serve (keepsRest_of_same fun _ => rfl) tag _) ht
  | frameError line chars ended =>
    cases line with
    | sp => exact h.of_occurs_run (fun occurs => h.run_of_port .sp (State.on_of_receives (Bool.and_eq_true_iff.mp occurs).2)) (by simp) ht
    | cp => exact h.of_occurs_run (fun occurs => h.run_of_port .cp (State.on_of_receives (Bool.and_eq_true_iff.mp occurs).2)) (by simp) ht
    | fp => exact h.of_occurs (fun _ => h.festoonError) ht
  | strayFrame line f ended =>
    have receives : ∀ {l : MasterLine} {a c : Bool}, (a && s.masterReceives l && c) = true → (s.port l).state ≠ .off :=
      fun occurs => State.on_of_receives (Bool.and_eq_true_iff.mp (Bool.and_eq_true_iff.mp occurs).1).2
    cases line with
    | sp => exact h.of_occurs_run (fun occurs => h.run_of_port .sp (receives occurs)) (by simp) ht
    | cp => exact h.of_occurs_run (fun occurs => h.run_of_port .cp (receives occurs)) (by simp) ht
    | fp => exact h.of_occurs (fun _ => h.festoonGood) ht
  | masterResponseAccepted line f =>
    refine h.of_occurs_run (fun occurs => h.run_of_port line (State.on_of_receives ?_)) (by simp) ht
    exact (Bool.and_eq_true_iff.mp (Bool.and_eq_true_iff.mp occurs).1).2
  | hailReplyTaken f =>
    exact h.of_occurs_run (fun occurs => h.run_of_port .sp (State.on_of_receives (Bool.and_eq_true_iff.mp occurs).1))
      ((State.hub_takeReply _ _).trans (s.hub_judged_scoreGood .sp)) ht
  | festoonDataAccepted f => exact h.of_occurs (fun _ => h.takeData f) ht
  | festoonPoll f => exact h.of_occurs (fun _ => h.takePoll f) ht
  | festoonReceptionStart => exact h.of_occurs (fun _ => h.beginReception) ht
  | festoonDataAnswer => exact h.of_occurs_same s.resting_beginAnswer ht
  | mgmtReplyStart => exact h.of_occurs_same s.resting_beginReply ht
  | cycleTimerExpiry line =>
    refine h.of_occurs_run (fun occurs => h.run_of_port line fun off => ?_) (by simp) ht
    simp [off] at occurs
  | turnBoundary line =>
    refine h.of_occurs_run (fun occurs => h.run_of_port line fun off => ?_) (by simp) ht
    simp [MasterPort.atTurnEnd, off] at occurs
  | outTurnStart line => exact h.of_occurs_run (fun due => h.run_of_port line (State.on_of_turn (by simp [due]))) (by simp) ht
  | outFrameEnd line => exact h.of_occurs_run (fun sends => h.run_of_port line (State.on_of_turn (by simp [sends]))) (by simp) ht
  | inTurn line => exact h.of_occurs_run (fun due => h.run_of_port line (State.on_of_turn (by simp [due]))) (by simp) ht
  | pollEnd line => exact h.of_occurs_run (fun polls => h.run_of_port line (State.on_of_turn (by simp [polls]))) (by simp) ht
  | responseWindowExpiry line =>
    exact h.of_occurs_run (fun waits => h.run_of_port line (State.on_of_turn (by simp [waits]))) (by simp) ht
  | firstHail | searchTimerExpiry | hailEnd | searchWindowExpiry =>
    refine h.of_occurs_run (fun occurs => h.run_of_port .sp fun (off : s.sp.state = .off) => ?_) (by rfl) ht
    simp [off] at occurs
  | detachTimerExpiry line =>
    cases line with
    | sp =>
      refine h.of_occurs_run (fun occurs => h.run_of_port .sp fun (off : s.sp.state = .off) => ?_) (by simp) ht
      simp [off] at occurs
    | cp =>
      refine h.of_occurs_run (fun occurs => h.run_of_port .cp fun (off : s.cp.state = .off) => ?_) (by simp) ht
      simp [off] at occurs
    | fp => exact h.of_occurs_same (by rfl) ht
  | staleTimerExpiry slot =>
    refine h.of_occurs (fun timed => State.rests_of_run ?_) ht
    rw [Work.close_operating, Work.staleExpiry_st]
    exact h.run_of_timed timed
  | sweep | scanCompletion samples readings | feedReading feed =>
    exact h.of_occurs_run State.run_of_possible (by simp) ht
  | l2ChainBuild => exact h.of_occurs_run State.run_of_possible (by rfl) ht
  | scanTimerExpiry => exact h.of_occurs_run (fun occurs => State.run_of_possible (Bool.and_eq_true_iff.mp occurs).1) (by rfl) ht
  | portHold line | portRelease line =>
    exact h.of_occurs_run (fun order => h.run_of_order (beq_iff_eq.mp order)) (by simp) ht
  | lineRest line => exact h.of_occurs_same (s.resting_setPhase line _) ht

/-- Settles O58: the invariant is that CONFIG rests, which every command keeps. -/
theorem stepKeepsConfigAtRest : Obligations.StepKeepsConfigAtRest := fun s t h ht => by
  refine State.Rests.restInv ?_
  unfold step at ht
  split at ht
  · obtain rfl := Host.Outcome.next.inj ht
    exact h.rest.rests
  · next rest _ => exact exec_keeps_rest (s := s.withPending rest) (h.rest.rests.of_same rfl) ht

end Sys2Proof.Machine
end

/-! # Proofs about power-on, the reset input, and the commands of the operating states (R153, R155, R158, R161 to R163)

Power-on and the reset input come first, each a value written out. A management command that touches no record leaves just its state
with the reply due, and its rules are then read off its effect on the part after its frame was scored. -/

section
namespace Sys2Proof.Machine

/-! ### Power-on (R153) -/

/-- Settles O3: the two commands answer the one power-on state, whose tables hold one value each. -/
theorem powerOnAndResetReleaseState : Obligations.PowerOnAndResetReleaseState := by
  intro strap s
  have ports : ∀ l, (State.powerOn strap s.pending).port l =
      ⟨.off, ⟨0, .active, .kbit500, .rested⟩, .none, none, none, false, false, [], none⟩ := fun l => by cases l <;> rfl
  exact ⟨.powerOn strap s.pending, rfl, rfl, rfl, rfl, rfl, rfl, rfl, rfl, Tab.get_fill _, ports, rfl, Tab.get_fill _, rfl, rfl, rfl,
    Tab.get_fill _, Tab.get_fill _, rfl, Tab.get_fill _, rfl, Tab.get_fill _, Tab.get_fill _, rfl, Tab.get_fill _, Tab.get_fill _, rfl,
    Tab.get_fill _, Tab.get_fill _, Tab.get_fill _, Tab.get_fill _, Tab.get_fill _, Tab.get_fill _, Tab.get_fill _, Tab.get_fill _, rfl,
    Tab.get_fill _, Tab.get_fill _, Tab.get_fill _, rfl, rfl, rfl, rfl, Tab.get_fill _, Tab.get_fill _⟩

section
variable (strap : BitVec 5) (q : List Instr)

theorem State.powerOn_image (i : SigIx) : (State.powerOn strap q).image.get i = ⟨0, .absent, 65535, none⟩ := Tab.get_fill _ i

theorem State.imageInv_powerOn : ImageInv (State.powerOn strap q) where
  records i := by
    rw [State.powerOn_image]
    exact ⟨⟨by decide, by decide⟩, le_rfl, nofun⟩
  conversions c := by
    rw [show (State.powerOn strap q).tables.conversions.get c = _ from Tab.get_fill _ c]
    exact ⟨⟨by decide, by decide⟩, ⟨by decide, by decide⟩, le_rfl⟩
  forces := by
    have bare : (State.powerOn strap q).forceCount = 0 := List.countP_eq_zero.mpr fun r member => by
      rw [List.eq_of_mem_replicate member]
      exact Bool.false_ne_true
    rw [bare]
    exact Nat.zero_le 32

theorem State.countersInv_powerOn : CountersInv (State.powerOn strap q) where
  score l := by cases l <;> exact Nat.zero_le 247
  active l _ := by cases l <;> exact Nat.zero_le 95
  degraded l h := by cases l <;> exact Health.noConfusion h
  events := Nat.zero_le 32

/-- R18: every record is as a clearing leaves it. -/
theorem State.qualityInv_powerOn : QualityInv (State.powerOn strap q) where
  spreader := nofun
  cab := nofun
  festoon := nofun
  trolley := nofun
  gate := nofun
  unassigned := nofun
  panel i _ := .inr (congrArg SigRec.quality (State.powerOn_image strap q i))
  config _ i _ := State.powerOn_image strap q i

end

/-- The whole invariant at power-on, whatever the strap and the queue. -/
theorem State.inv_powerOn (strap : BitVec 5) (q : List Instr) : (State.powerOn strap q).Inv where
  image := State.imageInv_powerOn strap q
  counters := State.countersInv_powerOn strap q
  ports := (State.engine_fit_powerOn strap q).portInv
  slots := (State.engine_fit_powerOn strap q).slotInv
  gates := (State.fit_powerOn strap q).gateInv
  feeds := (State.fit_powerOn strap q).feedInv
  trolley := (State.fit_powerOn strap q).trolleyInv
  rest := (State.rests_powerOn strap q).restInv
  festoon := (State.hub_fit_powerOn strap q).festoonInv
  valid := (State.hub_fit_powerOn strap q).validInv
  quality := State.qualityInv_powerOn strap q

/-- Settles O53: the reset state is the power-on state of strap 0 with no command waiting. -/
theorem invariantHoldsAtReset : Obligations.InvariantHoldsAtReset := State.inv_powerOn 0 []

/-! ### The reset input (R153) -/

/-- R153: while the reset input is asserted no command but the three of the reset itself is taken. -/
theorem exec_of_resetHeld {c : Instr} {s : State} (held : s.resetHeld = true) (on : ∀ strap, c ≠ .powerOn strap)
    (assert : c ≠ .resetInputAssert) (release : ∀ strap, c ≠ .resetInputRelease strap) : exec c s = .next s := by
  cases c with
  | powerOn strap => exact absurd rfl (on strap)
  | resetInputAssert => exact absurd rfl assert
  | resetInputRelease strap => exact absurd rfl (release strap)
  | frameError line | strayFrame line | detachTimerExpiry line => cases line <;> exact State.occurs_of_held _ _ held
  | _ => exact State.occurs_of_held _ _ held

/-- Settles O4: what the assertion leaves is `State.holdReset`, and every other command meets the check of the reset. -/
theorem resetInputStopsThePart : Obligations.ResetInputStopsThePart :=
  ⟨fun s => ⟨s.holdReset, rfl, Tab.get_map _ _, rfl⟩, fun _ _ held => exec_of_resetHeld held⟩

/-! ### Commands that touch no record (R126, R164) -/

/-- R126, R164: such a command leaves its state with the reply due. -/
theorem State.manage_of_untouched {s : State} (awake : s.awake) (receives : s.festoonReceives = true) (tag : BitVec 6) (code : Nat)
    {need : Nat} {req : List Byte} (fits : requestFits req = true) (long : need ≤ req.length) {command : Work → Served} {r : Served}
    (served : command s.festoonGood.work = r) (untouched : ∀ i, r.work.touched i = false) :
    s.manage tag code need req command =
      .next (r.work.st.replying tag code (statusCode r.status) r.data s.festoonGood.fp.link.rate) := by
  rw [State.manage_eq awake receives tag code need fits, withRequest_of_le long, served, Served.answered_close r _ _ _ untouched]

/-! ### ENTER_CONFIG, ENTER_RUN and RESTART (R158, R161 to R163) -/

section
variable {u : State}

theorem State.enterConfig_of_config (config : u.operating = .config) : u.work.enterConfig = ⟨u.work, .done, []⟩ := by
  simp [Work.enterConfig, config]

theorem State.enterConfig_of_run (run : u.operating = .run) : u.work.enterConfig = ⟨u.work.on State.toConfig, .done, []⟩ := by
  simp [Work.enterConfig, run]

theorem State.enterRun_of_run (run : u.operating = .run) : u.work.enterRun = u.work.refuse .state := by simp [Work.enterRun, run]

theorem State.enterRun_of_failure (config : u.operating = .config) {f : Failure} (fails : u.tables.validate = some f) :
    u.work.enterRun = ⟨u.work, .invalid, failureBytes f⟩ := by simp [Work.enterRun, config, fails]

theorem State.enterRun_of_valid (config : u.operating = .config) (valid : u.tables.validate = none) :
    u.work.enterRun = ⟨u.work.on fun s => State.toRun { s with validated := true }, .done, []⟩ := by
  simp [Work.enterRun, config, valid]

end

/-- Settles O8: each case of the two commands, with the entries of `State.toConfig_entry` and `State.toRun_entry`. -/
theorem enterConfigAndEnterRun : Obligations.EnterConfigAndEnterRun := by
  constructor <;> intro tag req s awake receives fits u
  · have taken : ∀ {r}, u.work.enterConfig = r → (∀ i, r.work.touched i = false) → exec (.enterConfig tag req) s = _ :=
      State.manage_of_untouched awake receives tag 0x02 fits (Nat.zero_le _)
    exact ⟨fun config => taken (State.enterConfig_of_config config) fun _ => rfl,
      fun run => ⟨u.toConfig, u.toConfig_entry, taken (State.enterConfig_of_run run) fun _ => rfl⟩⟩
  · have taken : ∀ {r}, u.work.enterRun = r → (∀ i, r.work.touched i = false) → exec (.enterRun tag req) s = _ :=
      State.manage_of_untouched awake receives tag 0x03 fits (Nat.zero_le _)
    exact ⟨fun run => taken (State.enterRun_of_run run) fun _ => rfl,
      fun f config fails => taken (State.enterRun_of_failure config fails) fun _ => rfl,
      fun config valid => ⟨_, State.toRun_entry _, taken (State.enterRun_of_valid config valid) fun _ => rfl⟩⟩

/-- R162: the restart's reply has ended. -/
theorem State.restartReplySent_of {s : State} (pending : s.fp.restartPending = true) (sends : ∃ f r, s.fp.link.phase = .sending f r) :
    s.restartReplySent = true := by
  obtain ⟨f, r, phase⟩ := sends
  simp [State.restartReplySent, pending, phase]

/-- Settles O6: the warm restart of `State.warmRestart_entry`, whose CONFIG it leaves or follows with RUN, and RESTART's pending flag. -/
theorem restartPendsThenTakesEffect : Obligations.RestartPendsThenTakesEffect := by
  constructor
  · intro s awake pending sends
    obtain ⟨config, stays, restarts⟩ := State.warmRestart_entry s
    exact ⟨_, s.warmRestart, State.occurs_of _ awake (State.restartReplySent_of pending sends), config, stays, restarts⟩
  · intro tag req s awake receives fits u
    exact State.manage_of_untouched awake receives tag 0x04 fits (Nat.zero_le _) rfl fun _ => rfl

/-! ### WRITE_TABLE (R6, R155, R157, R174) -/

section
variable {u : State} {req : List Byte} {table : TableId}

theorem State.writeTable_of_unknown (unknown : tableOfCode (byteAt req 0) = none) : u.work.writeTable req = u.work.refuse .range := by
  simp only [Work.writeTable, unknown]

theorem State.writeTable_of_run (known : tableOfCode (byteAt req 0) = some table) (run : u.operating = .run) (other : table ≠ .watch) :
    u.work.writeTable req = u.work.refuse .state := by
  simp [Work.writeTable, known, run, other]

/-- R155: where the table may be written, the record is refused or taken as `Tables.write` says. -/
theorem State.writeTable_of_allowed (known : tableOfCode (byteAt req 0) = some table)
    (allowed : u.operating = .config ∨ table = .watch) : u.work.writeTable req =
      match u.tables.write table (wordAt req 1) (req.drop 3) with
      | none => u.work.refuse .range
      | some (t, clamped) => ⟨u.work.on (State.acceptWrite table (wordAt req 1) t), if clamped then .doneClamped else .done,
          oneByte (tableCode table) ++ twoBytes (wordAt req 1)⟩ := by
  have free : (u.operating == .run && table != .watch) = false := by
    obtain config | watch := allowed
    · simp [config]
    · simp [watch]
  simp only [Work.writeTable, known]
  rw [if_neg (by simp [free])]
  rfl

end

section
variable (s : State) (table : TableId) (i : Nat) (t : Tables)

theorem State.acceptWrite_frame : s.acceptWrite table i t = { s with
    tables := t, validated := (s.acceptWrite table i t).validated, watchLast := (s.acceptWrite table i t).watchLast
    image := (s.acceptWrite table i t).image } := by
  unfold State.acceptWrite
  split
  · split <;> rfl
  all_goals rfl

/-- R157: the flag outlasts a WATCH write alone. -/
theorem State.acceptWrite_validated : (s.acceptWrite table i t).validated = if table = .watch then s.validated else false :=
  congrArg Hub.validated (s.hub_acceptWrite table i t)

/-- R174: a WATCH write unsets its entry's last-reported view. -/
theorem State.acceptWrite_watchLast (w : Fin 8) : (s.acceptWrite table i t).watchLast.get w =
    if table = .watch ∧ w.val = i then none else s.watchLast.get w := by
  unfold State.acceptWrite
  split
  · split
    · next k found =>
      obtain ⟨_, found⟩ := Option.dite_none_right_eq_some.mp found
      obtain rfl := Option.some.inj found
      rw [Tab.get_set]
      simp only [true_and, Fin.ext_iff]
    · next outside =>
      have past : w.val ≠ i := by
        rintro rfl
        rw [finOf_val] at outside
        exact nomatch outside
      simp only [past, and_false, if_false]
  all_goals exact (if_neg nofun).symm

/-- R6: an AREA write clears what leaves the PANEL areas. -/
theorem State.acceptWrite_image (j : SigIx) : (s.acceptWrite table i t).image.get j =
    if table = .area ∧ s.tables.ownedBy .panel j = true ∧ t.ownedBy .panel j = false then (s.image.get j).emptied
    else s.image.get j := by
  unfold State.acceptWrite
  split
  · split <;> exact (if_neg nofun).symm
  · simp only [State.leavePanel, Tab.get_mapIdx, SigRec.cleared_eq_emptied, Bool.and_eq_true, Bool.not_eq_true', true_and]
  all_goals exact (if_neg nofun).symm

end

/-- Settles O11: the refusals in their order, and the fields of an accepted write one by one. -/
theorem writeTableReplacesOrRefuses : Obligations.WriteTableReplacesOrRefuses := by
  intro tag req s awake receives fits long u echo
  have taken : ∀ {r}, u.work.writeTable req = r → (∀ i, r.work.touched i = false) → exec (.writeTable tag req) s = _ :=
    State.manage_of_untouched awake receives tag 0x06 fits long
  refine ⟨fun unknown => taken (State.writeTable_of_unknown unknown) fun _ => rfl, fun table known => ⟨fun ⟨run, other⟩ => ?_,
    fun allowed => ?_⟩⟩
  · exact taken (State.writeTable_of_run known run other) fun _ => rfl
  · have served := State.writeTable_of_allowed known allowed
    refine ⟨fun refused => ?_, fun tables clamped accepted => ⟨u.acceptWrite table (wordAt req 1) tables, ?_, ?_, ?_, ?_, ?_, ?_⟩⟩
    · rw [refused] at served
      exact taken served fun _ => rfl
    · rw [accepted] at served
      cases clamped <;> exact taken served fun _ => rfl
    · rw [State.acceptWrite_frame]
    · exact u.acceptWrite_validated _ _ _
    · exact u.acceptWrite_watchLast _ _ _
    · exact u.acceptWrite_image _ _ _
    · rw [State.acceptWrite_frame]

end Sys2Proof.Machine
end

/-! # Proofs about which writes are refused (R155, R156)

A record is taken when it is long enough and each of its structural fields is taken. One lemma for each kind of field says which numbers
it takes; `taken_bind` and its companions join them along the fields of a record, so that each record's lemma lists its fields. -/

section
namespace Sys2Proof.Machine

/-! ### The numbers that a field takes -/

theorem finOf_taken (hi k : Nat) : (finOf (hi + 1) k).isSome = true ↔ k ≤ hi := (finOf_isSome _ _).trans Nat.lt_succ_iff

theorem upTo_taken (hi k : Nat) : (upTo hi k).isSome = true ↔ k ≤ hi := by
  unfold upTo
  split <;> simp [*]

theorem flagOf_taken (k : Nat) : (flagOf k).isSome = true ↔ k ≤ 1 := by
  unfold flagOf
  split <;> grind

theorem directionOf_taken (k : Nat) : (directionOf k).isSome = true ↔ k ≤ 1 := by
  unfold directionOf
  split <;> grind

theorem ownerOf_taken (k : Nat) : (ownerOf k).isSome = true ↔ k ≤ 5 := by
  unfold ownerOf
  split <;> grind

theorem rateOf_taken (k : Nat) : (rateOf k).isSome = true ↔ k ≤ 2 := by
  unfold rateOf
  split <;> grind

theorem testOf_taken (k : Nat) : (testOf k).isSome = true ↔ k ≤ 7 := by
  unfold testOf
  split <;> grind

theorem scaleOf_taken (k : Nat) : (scaleOf k).isSome = true ↔ k ∈ [1, 2, 4, 8, 16] := by
  simp only [List.mem_cons, List.not_mem_nil, or_false]
  unfold scaleOf
  split <;> grind

theorem optByte_taken (hi k : Nat) : (optByte (hi + 1) k).isSome = true ↔ k = 0xFF ∨ k ≤ hi := by
  unfold optByte
  split
  · simp [*]
  · rw [Option.isSome_map, finOf_taken]; simp [*]

theorem optWord_taken (hi k : Nat) : (optWord (hi + 1) k).isSome = true ↔ k = 0xFFFF ∨ k ≤ hi := by
  unfold optWord
  split
  · simp [*]
  · rw [Option.isSome_map, finOf_taken]; simp [*]

/-- R83: slot 0 to 15 of SP and CP, slot 2 of L, or no target. -/
theorem chainOf_taken (line slot : Nat) : (chainOf line slot).isSome = true ↔
    line = 0xFF ∨ (line ≤ 1 ∧ slot ≤ 15) ∨ (line = 3 ∧ slot = 2) := by
  unfold chainOf
  split
  · rw [Option.isSome_map, finOf_taken 15]; omega
  · rw [Option.isSome_map, finOf_taken 15]; omega
  · split <;> simp [*]
  · simp
  · grind

/-- R84: the node addresses of a direction. -/
theorem nodeOf_taken {line k : Nat} {d : Direction} (coded : directionOf line = some d) :
    (nodeOf d k).isSome = true ↔ 1 ≤ k ∧ k ≤ if line = 0 then 30 else 31 := by
  unfold directionOf at coded
  split at coded
  · obtain rfl := Option.some.inj coded
    simp [nodeOf]
  · obtain rfl := Option.some.inj coded
    simp [nodeOf]
  · exact nomatch coded

/-- A signed field's number, in two's complement (R76). -/
theorem intAt_eq (bs : List Byte) (k : Nat) :
    intAt bs k = if wordAt bs k < 32768 then (wordAt bs k : Int) else (wordAt bs k : Int) - 65536 := by
  have word : wordAt bs k < 65536 := by
    have low := (bs.getD k 0).isLt
    have high := (bs.getD (k + 1) 0).isLt
    simp only [wordAt, byteAt]
    omega
  rw [intAt, BitVec.toInt_eq_toNat_cond, BitVec.toNat_ofNat, Nat.mod_eq_of_lt word]
  split <;> split <;> omega

/-! ### Fields one after the other -/

section
variable {α β : Type} {x : Option α} {p q : Prop}

/-- A field is taken and so is what follows it, which may rest on the field's value. -/
theorem taken_bind_of {f : α → Option β} (field : x.isSome = true ↔ p) (rest : ∀ a, x = some a → ((f a).isSome = true ↔ q)) :
    (x.bind f).isSome = true ↔ p ∧ q := by
  cases x with
  | none => simp [← field]
  | some a => simp [← field, rest a rfl]

theorem taken_bind {f : α → Option β} (field : x.isSome = true ↔ p) (rest : ∀ a, (f a).isSome = true ↔ q) :
    (x.bind f).isSome = true ↔ p ∧ q := taken_bind_of field fun a _ => rest a

/-- The last field of a record. -/
theorem taken_last {f : α → β} (field : x.isSome = true ↔ p) : (x.bind fun a => some (f a)).isSome = true ↔ p := by
  cases x <;> simp [← field]

/-- What is refused outright, and otherwise what follows. -/
theorem taken_unless {c : Prop} [Decidable c] (passes : ¬c ↔ p) (rest : x.isSome = true ↔ q) :
    (if c then none else x).isSome = true ↔ p ∧ q := by
  rw [← passes, ← rest]
  split <;> simp [*]

theorem taken_ite {c : Prop} [Decidable c] {y : Option α} (holds : x.isSome = true ↔ p) (fails : y.isSome = true ↔ q) :
    (if c then x else y).isSome = true ↔ (c ∧ p) ∨ (¬c ∧ q) := by
  rw [← holds, ← fails]
  split <;> simp [*]

end

/-! ### The records that are taken -/

section
variable (bs : List Byte)

/-- A signal address in range: base, selector and scale (R8, R76). -/
def AddressInRange (k : Nat) : Prop :=
  wordAt bs k ≤ 511 ∧ (wordAt bs (k + 2) = 0xFFFF ∨ wordAt bs (k + 2) ≤ 511) ∧ byteAt bs (k + 4) ∈ [1, 2, 4, 8, 16]

/-- A chain target in range: its line and its slot (R83). -/
def ChainInRange (k : Nat) : Prop :=
  byteAt bs k = 0xFF ∨ (byteAt bs k ≤ 1 ∧ byteAt bs (k + 1) ≤ 15) ∨ (byteAt bs k = 3 ∧ byteAt bs (k + 1) = 2)

theorem addrOf_taken (k : Nat) : (addrOf bs k).isSome = true ↔ AddressInRange bs k :=
  taken_bind (finOf_taken 511 _) fun _ => taken_bind (optWord_taken 511 _) fun _ => taken_last (scaleOf_taken _)

theorem optAddrOf_taken (k : Nat) : (optAddrOf bs k).isSome = true ↔ wordAt bs k = 0xFFFF ∨ AddressInRange bs k := by
  unfold optAddrOf
  split
  · simp [*]
  · rw [Option.isSome_map, addrOf_taken]; simp [*]

theorem areaOf?_taken : (areaOf? bs).isSome = true ↔ 7 ≤ bs.length ∧ byteAt bs 0 ≤ 1 ∧ wordAt bs 1 ≤ 511 ∧ wordAt bs 3 ≤ 511 ∧
    byteAt bs 5 ≤ 5 ∧ byteAt bs 6 ≤ 1 :=
  taken_unless not_lt <| taken_bind (flagOf_taken _) fun _ => taken_bind (finOf_taken 511 _) fun _ =>
    taken_bind (finOf_taken 511 _) fun _ => taken_bind (ownerOf_taken _) fun _ => taken_last (flagOf_taken _)

theorem lineOf?_taken (i : Fin 3) : (lineOf? i bs).isSome = true ↔ 5 ≤ bs.length ∧ byteAt bs 0 ≤ 1 ∧ byteAt bs 1 ≤ 2 :=
  taken_unless not_lt <| taken_bind (flagOf_taken _) fun _ => taken_last (rateOf_taken _)

theorem profileOf?_taken : (profileOf? bs).isSome = true ↔ 3 ≤ bs.length ∧ byteAt bs 0 ≤ 1 :=
  taken_unless not_lt <| taken_last (flagOf_taken _)

theorem masterOf?_taken : (masterOf? bs).isSome = true ↔ 14 ≤ bs.length ∧ byteAt bs 0 ≤ 1 ∧ byteAt bs 1 ≤ 1 ∧ byteAt bs 2 ≤ 63 ∧
    (1 ≤ byteAt bs 3 ∧ byteAt bs 3 ≤ if byteAt bs 1 = 0 then 30 else 31) ∧ byteAt bs 4 ≤ 16 ∧ wordAt bs 8 ≤ 383 ∧ byteAt bs 10 ≤ 24 ∧
    byteAt bs 11 ≤ 1 ∧ ChainInRange bs 12 :=
  taken_unless not_lt <| taken_bind (flagOf_taken _) fun _ => taken_bind_of (directionOf_taken _) fun _ coded =>
    taken_bind (upTo_taken _ _) fun _ => taken_bind (nodeOf_taken coded) fun _ => taken_bind (upTo_taken _ _) fun _ =>
    taken_bind (upTo_taken _ _) fun _ => taken_bind (upTo_taken _ _) fun _ => taken_bind (flagOf_taken _) fun _ =>
    taken_last (chainOf_taken _ _)

theorem festoonOf?_taken : (festoonOf? bs).isSome = true ↔ 11 ≤ bs.length ∧ byteAt bs 0 ≤ 1 ∧ byteAt bs 1 ≤ 1 ∧ byteAt bs 2 ≤ 63 ∧
    byteAt bs 3 ≤ 16 ∧ wordAt bs 4 ≤ 383 ∧ byteAt bs 6 ≤ 24 ∧ ChainInRange bs 9 :=
  taken_unless not_lt <| taken_bind (flagOf_taken _) fun _ => taken_bind (directionOf_taken _) fun _ =>
    taken_bind (upTo_taken _ _) fun _ => taken_bind (upTo_taken _ _) fun _ => taken_bind (upTo_taken _ _) fun _ =>
    taken_bind (upTo_taken _ _) fun _ => taken_last (chainOf_taken _ _)

/-- R20: a width of 0 is out of range. -/
theorem placementOf?_taken : (placementOf? bs).isSome = true ↔ 13 ≤ bs.length ∧ byteAt bs 0 ≤ 1 ∧ byteAt bs 2 ≤ 16 ∧
    1 ≤ byteAt bs 2 ∧ byteAt bs 3 ≤ 1 ∧ AddressInRange bs 4 ∧ (byteAt bs 9 = 0xFF ∨ byteAt bs 9 ≤ 63) ∧
    (byteAt bs 10 = 0xFF ∨ byteAt bs 10 ≤ 31) := by
  have width : ∀ {w}, upTo 16 (byteAt bs 2) = some w → (¬w = 0 ↔ 1 ≤ byteAt bs 2) := fun taken => by
    obtain ⟨-, taken⟩ := Option.ite_none_right_eq_some.mp taken
    obtain rfl := Option.some.inj taken
    exact Nat.one_le_iff_ne_zero.symm
  exact taken_unless not_lt <| taken_bind (directionOf_taken _) fun _ => taken_bind_of (upTo_taken _ _) fun _ taken =>
    taken_unless (width taken) <| taken_bind (flagOf_taken _) fun _ => taken_bind (addrOf_taken bs 4) fun _ =>
    taken_bind (optByte_taken 63 _) fun _ => taken_last (optByte_taken 31 _)

theorem conversionOf?_taken : (conversionOf? bs).isSome = true ↔
    12 ≤ bs.length ∧ byteAt bs 0 ≤ 1 ∧ byteAt bs 5 ≤ 15 ∧ intAt bs 8 ≤ intAt bs 10 :=
  taken_unless not_lt <| taken_bind (flagOf_taken _) fun _ => taken_bind (upTo_taken _ _) fun _ =>
    (taken_unless not_lt (iff_of_true rfl trivial)).trans (and_iff_left trivial)

theorem gateOf?_taken : (gateOf? bs).isSome = true ↔ 14 ≤ bs.length ∧ byteAt bs 0 ≤ 1 ∧ byteAt bs 1 ≤ 8 ∧ byteAt bs 3 ≤ 1 ∧
    byteAt bs 4 ≤ 1 ∧ (wordAt bs 5 = 0xFFFF ∨ AddressInRange bs 5) ∧ wordAt bs 10 ≤ 511 ∧ ChainInRange bs 12 :=
  taken_unless not_lt <| taken_bind (flagOf_taken _) fun _ => taken_bind (upTo_taken _ _) fun _ => taken_bind (flagOf_taken _) fun _ =>
    taken_bind (flagOf_taken _) fun _ => taken_bind (optAddrOf_taken bs 5) fun _ => taken_bind (finOf_taken 511 _) fun _ =>
    taken_last (chainOf_taken _ _)

theorem termOf?_taken : (termOf? bs).isSome = true ↔ 9 ≤ bs.length ∧ AddressInRange bs 0 ∧ byteAt bs 5 ≤ 7 ∧ byteAt bs 6 ≤ 1 :=
  taken_unless not_lt <| taken_bind (addrOf_taken bs 0) fun _ => taken_bind (testOf_taken _) fun _ => taken_last (flagOf_taken _)

theorem channelOf?_taken : (channelOf? bs).isSome = true ↔ 2 ≤ bs.length ∧ byteAt bs 0 ≤ 1 ∧ byteAt bs 1 ≤ 1 :=
  taken_unless not_lt <| taken_bind (flagOf_taken _) fun _ => taken_last (flagOf_taken _)

theorem lSlotOf?_taken : (lSlotOf? bs).isSome = true ↔ 3 ≤ bs.length ∧ wordAt bs 0 ≤ 383 ∧ byteAt bs 2 ≤ 24 :=
  taken_unless not_lt <| taken_bind (upTo_taken _ _) fun _ => taken_last (upTo_taken _ _)

/-- R156: a timing field is clamped, never refused. -/
theorem timingOf?_taken (lo hi : Nat) : (timingOf? lo hi bs).isSome = true ↔ 1 ≤ bs.length :=
  (taken_unless not_lt (iff_of_true rfl trivial)).trans (and_iff_left trivial)

theorem feedOf?_taken : (feedOf? bs).isSome = true ↔
    7 ≤ bs.length ∧ byteAt bs 0 ≤ 1 ∧ wordAt bs 1 ≤ wordAt bs 3 ∧ wordAt bs 3 ≤ 4095 := by
  have order : ∀ {low recover}, upTo 4095 (wordAt bs 1) = some low → upTo 4095 (wordAt bs 3) = some recover →
      (¬recover < low ↔ wordAt bs 1 ≤ wordAt bs 3) := fun low recover => by
    obtain ⟨-, low⟩ := Option.ite_none_right_eq_some.mp low
    obtain ⟨-, recover⟩ := Option.ite_none_right_eq_some.mp recover
    obtain rfl := Option.some.inj low
    obtain rfl := Option.some.inj recover
    exact not_lt
  have fields : (feedOf? bs).isSome = true ↔ 7 ≤ bs.length ∧ byteAt bs 0 ≤ 1 ∧ wordAt bs 1 ≤ 4095 ∧ wordAt bs 3 ≤ 4095 ∧
      wordAt bs 1 ≤ wordAt bs 3 ∧ True :=
    taken_unless not_lt <| taken_bind (flagOf_taken _) fun _ => taken_bind_of (upTo_taken _ _) fun _ low =>
      taken_bind_of (upTo_taken _ _) fun _ recover => taken_unless (order low recover) (iff_of_true rfl trivial)
  rw [fields, and_true]
  omega

theorem watchOf?_taken : (watchOf? bs).isSome = true ↔ 5 ≤ bs.length ∧ byteAt bs 0 ≤ 1 ∧ wordAt bs 1 ≤ 511 ∧ wordAt bs 3 ≤ 32767 :=
  taken_unless not_lt <| taken_bind (flagOf_taken _) fun _ => taken_bind (finOf_taken 511 _) fun _ => taken_last (upTo_taken _ _)

end

/-! ### The entries that are taken -/

section
variable {α : Type} {n : Nat} {p : Prop}

/-- An entry of a table is taken where the table has it and its record is taken. -/
theorem entry_taken (hi : Nat) {record : Fin (hi + 1) → Option α} {store : Fin (hi + 1) → α → Tables × Bool}
    (taken : ∀ k, (record k).isSome = true ↔ p) :
    ((finOf (hi + 1) n).bind fun k => (record k).bind fun a => some (store k a)).isSome = true ↔ n ≤ hi ∧ p :=
  taken_bind (finOf_taken hi n) fun k => taken_last (taken k)

end

section
variable (t : Tables) (n : Nat) (bs : List Byte)

/-- R83, R120: the master slots stand before the festoon slots. -/
theorem Tables.write_slot_taken : (t.write .slot n bs).isSome = true ↔
    (n ≤ 79 ∧ (masterOf? bs).isSome = true) ∨ (80 ≤ n ∧ n ≤ 95 ∧ (festoonOf? bs).isSome = true) := by
  have entries : (t.write .slot n bs).isSome = true ↔ (n < 80 ∧ n ≤ 79 ∧ (masterOf? bs).isSome = true) ∨
      (¬n < 80 ∧ n - 80 ≤ 15 ∧ (festoonOf? bs).isSome = true) :=
    taken_ite (entry_taken 79 fun _ => Iff.rfl) (entry_taken 15 fun _ => Iff.rfl)
  grind

/-- R41: the sweep period stands behind the gates. -/
theorem Tables.write_gate_taken : (t.write .gate n bs).isSome = true ↔
    (n ≤ 31 ∧ (gateOf? bs).isSome = true) ∨ (n = 32 ∧ (timingOf? 1 20 bs).isSome = true) := by
  have entries : (t.write .gate n bs).isSome = true ↔ (n = 32 ∧ (timingOf? 1 20 bs).isSome = true) ∨
      (¬n = 32 ∧ n ≤ 31 ∧ (gateOf? bs).isSome = true) :=
    taken_ite (taken_last Iff.rfl) (entry_taken 31 fun _ => Iff.rfl)
  grind

/-- R130: channels, inputs, the three L slots and the scan period. -/
theorem Tables.write_trolley_taken : (t.write .trolley n bs).isSome = true ↔
    (n ≤ 15 ∧ (channelOf? bs).isSome = true) ∨ (16 ≤ n ∧ n ≤ 31 ∧ (timingOf? 1 7 bs).isSome = true) ∨
    (32 ≤ n ∧ n ≤ 34 ∧ (lSlotOf? bs).isSome = true) ∨ (n = 35 ∧ (timingOf? 2 50 bs).isSome = true) := by
  have channels : n < 16 → ((t.write .trolley n bs).isSome = true ↔ n ≤ 15 ∧ (channelOf? bs).isSome = true) := fun first => by
    simp only [Tables.write, if_pos first]
    exact entry_taken 15 fun _ => Iff.rfl
  have inputs : ¬n < 16 → n < 32 → ((t.write .trolley n bs).isSome = true ↔ n - 16 ≤ 15 ∧ (timingOf? 1 7 bs).isSome = true) :=
    fun first second => by
      simp only [Tables.write, if_neg first, if_pos second]
      exact entry_taken 15 fun _ => Iff.rfl
  have last : ¬n < 32 → ((t.write .trolley n bs).isSome = true ↔
      (n ≤ 34 ∧ (lSlotOf? bs).isSome = true) ∨ (n = 35 ∧ (timingOf? 2 50 bs).isSome = true)) := fun second => by
    simp only [Tables.write, if_neg second, if_neg (show ¬n < 16 by omega)]
    split
    case h_5 => grind
    all_goals simp
  grind

end

/-- Settles O12: each table by its entries, each record by its fields. -/
theorem writesRefuseWhatIsOutOfRange : Obligations.WritesRefuseWhatIsOutOfRange := by
  intro t bs n b w signed address chain taken
  have compare : intAt bs 8 ≤ intAt bs 10 ↔ signed 8 ≤ signed 10 := by
    rw [intAt_eq, intAt_eq]
    rfl
  refine ⟨entry_taken 7 fun _ => areaOf?_taken bs, entry_taken 2 (lineOf?_taken bs), entry_taken 3 fun _ => profileOf?_taken bs, ?_, ?_,
    ?_, ?_, entry_taken 255 fun _ => termOf?_taken bs, ?_, entry_taken 1 fun _ => feedOf?_taken bs,
    entry_taken 7 fun _ => watchOf?_taken bs⟩
  · rw [show taken .slot ↔ _ from t.write_slot_taken n bs, masterOf?_taken, festoonOf?_taken, and_assoc (a := 1 ≤ byteAt bs 3)]
    rfl
  · rw [show taken .placement ↔ _ from entry_taken 383 fun _ => placementOf?_taken bs, and_left_comm (a := byteAt bs 2 ≤ 16)]
    rfl
  · rw [← compare]
    exact entry_taken 63 fun _ => conversionOf?_taken bs
  · rw [show taken .gate ↔ _ from t.write_gate_taken n bs, gateOf?_taken, timingOf?_taken]
    rfl
  · rw [show taken .trolley ↔ _ from t.write_trolley_taken n bs, channelOf?_taken, timingOf?_taken, lSlotOf?_taken, timingOf?_taken]
    rfl

end Sys2Proof.Machine
end

/-! # Proofs about the validation of ENTER_RUN (R158, R159)

A pass takes the entries it examines in the order of R159 and names the first that fails: it `Finds` a condition on entries. Each of the
23 passes finds the condition of `Tables.Fails` for its own reason, and the validation takes the passes in the order of the reasons. -/

section
namespace Sys2Proof.Machine

/-! ### The order of R159 -/

theorem tableOfCode_tableCode (table : TableId) : tableOfCode (tableCode table) = some table := by cases table <;> rfl

theorem tableCode_injective : Function.Injective tableCode := fun a b same =>
  Option.some.inj (by rw [← tableOfCode_tableCode a, same, tableOfCode_tableCode])

theorem entryBefore_asymm {a b : TableId} {m n : Nat} (h : entryBefore a m b n) : ¬entryBefore b n a m := by
  rintro (h' | ⟨same, h'⟩)
  · obtain h | ⟨rfl, -⟩ := h
    · omega
    · omega
  · subst same
    obtain h | ⟨-, h⟩ := h <;> omega

theorem entryBefore_irrefl (a : TableId) (n : Nat) : ¬entryBefore a n a n := fun h => entryBefore_asymm h h

/-- Of two entries one comes first, or they are the same. -/
theorem entryBefore_trichotomy (a b : TableId) (m n : Nat) : entryBefore a m b n ∨ (a = b ∧ m = n) ∨ entryBefore b n a m := by
  obtain h | h | h := Nat.lt_trichotomy (tableCode a) (tableCode b)
  · exact .inl (.inl h)
  · obtain rfl := tableCode_injective h
    obtain h | h | h := Nat.lt_trichotomy m n
    · exact .inl (.inr ⟨rfl, h⟩)
    · exact .inr (.inl ⟨rfl, h⟩)
    · exact .inr (.inr (.inr ⟨rfl, h⟩))
  · exact .inr (.inr (.inl h))

/-- In a list in an order, what comes before a member stands in front of it. -/
theorem mem_front {α : Type} {R : α → α → Prop} (asymm : ∀ {a b}, R a b → ¬R b a) {front back : List α} {a b : α}
    (sorted : (front ++ a :: back).Pairwise R) (member : b ∈ front ++ a :: back) (before : R b a) : b ∈ front := by
  obtain ⟨-, behind, -⟩ := List.pairwise_append.mp sorted
  obtain inside | rfl | inside := by simpa only [List.mem_append, List.mem_cons] using member
  · exact inside
  · exact absurd before (asymm before)
  · exact absurd before (asymm ((List.pairwise_cons.mp behind).1 b inside))

/-! ### The first member of a list that fails -/

section
variable {α : Type} {Bad : α → Prop}

/-- What is picked from a list is its first member that fails, and nothing where none fails. -/
structure PicksFirst (Bad : α → Prop) (l : List α) (x : Option α) : Prop where
  nothing : x = none → ∀ a ∈ l, ¬Bad a
  first : ∀ a, x = some a → Bad a ∧ ∃ before after, l = before ++ a :: after ∧ ∀ b ∈ before, ¬Bad b

theorem picksFirst_find {bad : α → Bool} (h : ∀ a, bad a = true ↔ Bad a) (l : List α) : PicksFirst Bad l (l.find? bad) where
  nothing none a member holds := List.find?_eq_none.mp none a member ((h a).mpr holds)
  first a found := by
    obtain ⟨holds, before, after, rfl, none⟩ := List.find?_eq_some_iff_append.mp found
    refine ⟨(h a).mp holds, before, after, rfl, fun b member holds => ?_⟩
    have passes := none b member
    rw [(h b).mpr holds] at passes
    exact Bool.noConfusion passes

/-- A slot judged by the slots before it: in its place in the list, a condition on the slot alone. -/
theorem picksFirst_firstFailing {bad : List Examined → Examined → Bool} {Bad : Examined → Prop} (before l : List Examined)
    (h : ∀ front x back, l = front ++ x :: back → (bad (before ++ front) x = true ↔ Bad x)) :
    PicksFirst Bad l (firstFailing bad before l) := by
  induction l generalizing before with
  | nil => exact ⟨fun _ _ => nofun, nofun⟩
  | cons a l ih =>
    have here : bad before a = true ↔ Bad a := by simpa using h [] a l rfl
    have later := ih (before ++ [a]) fun front x back place => by simpa using h (a :: front) x back (congrArg _ place)
    unfold firstFailing
    split
    · next fails =>
      refine ⟨nofun, fun b found => ?_⟩
      obtain rfl := Option.some.inj found
      exact ⟨here.mp fails, [], l, rfl, nofun⟩
    · next passes =>
      refine ⟨fun none => List.forall_mem_cons.mpr ⟨fun fails => passes (here.mpr fails), later.nothing none⟩, fun b found => ?_⟩
      obtain ⟨holds, front, back, rfl, earlier⟩ := later.first b found
      exact ⟨holds, a :: front, back, rfl, List.forall_mem_cons.mpr ⟨fun fails => passes (here.mpr fails), earlier⟩⟩

end

/-! ### The first entry that fails -/

/-- R159: what a pass names is the first entry that fails, and nothing where none fails. -/
structure Finds (fails : TableId → Nat → Prop) (x : Option (TableId × Nat)) : Prop where
  nothing : x = none → ∀ table n, ¬fails table n
  first : ∀ table n, x = some (table, n) → fails table n ∧ ∀ table' n', entryBefore table' n' table n → ¬fails table' n'

section
variable {fails : TableId → Nat → Prop}

/-- The first member of a list in the order of R159 that fails. -/
theorem PicksFirst.finds {α : Type} {Bad : α → Prop} {l : List α} {x : Option α} (picks : PicksFirst Bad l x)
    {key : α → TableId × Nat} (sorted : l.Pairwise fun a b => entryBefore (key a).1 (key a).2 (key b).1 (key b).2)
    (h : ∀ table n, fails table n ↔ ∃ a ∈ l, key a = (table, n) ∧ Bad a) : Finds fails (x.map key) where
  nothing none table n holds := by
    obtain ⟨a, member, -, bad⟩ := (h table n).mp holds
    exact picks.nothing (Option.map_eq_none_iff.mp none) a member bad
  first table n found := by
    obtain ⟨a, found, place⟩ := Option.map_eq_some_iff.mp found
    obtain ⟨bad, before, after, rfl, passes⟩ := picks.first a found
    refine ⟨(h table n).mpr ⟨a, by simp, place, bad⟩, fun table' n' earlier holds => ?_⟩
    obtain ⟨b, member, place', bad'⟩ := (h table' n').mp holds
    refine passes b (mem_front entryBefore_asymm sorted member ?_) bad'
    rw [place, place']
    exact earlier

/-- The first index of a table that fails. -/
theorem finds_index {m : Nat} {table : TableId} {bad : Fin m → Bool}
    (h : ∀ table' n, fails table' n ↔ table' = table ∧ ∃ k : Fin m, k.val = n ∧ bad k = true) :
    Finds fails ((((indices m).find? bad).map (·.val)).map fun n => (table, n)) := by
  rw [Option.map_map]
  refine (picksFirst_find (fun _ => Iff.rfl) _).finds ((List.pairwise_lt_finRange m).imp fun less => .inr ⟨rfl, less⟩)
    fun table' n => (h table' n).trans ?_
  constructor
  · rintro ⟨rfl, k, rfl, holds⟩
    exact ⟨k, List.mem_finRange k, rfl, holds⟩
  · rintro ⟨k, -, place, holds⟩
    obtain ⟨rfl, rfl⟩ := Prod.mk.inj place
    exact ⟨rfl, k, rfl, holds⟩

/-- One entry that fails under a condition. -/
theorem finds_ite (c : Prop) [Decidable c] (table : TableId) (n : Nat) :
    Finds (fun table' n' => (table' = table ∧ n' = n) ∧ c) (if c then some (table, n) else none) := by
  split
  · next holds =>
    refine ⟨nofun, fun table' n' found => ?_⟩
    obtain ⟨rfl, rfl⟩ := Prod.mk.inj (Option.some.inj found)
    refine ⟨⟨⟨rfl, rfl⟩, holds⟩, fun table' n' earlier => ?_⟩
    rintro ⟨⟨rfl, rfl⟩, -⟩
    exact entryBefore_irrefl _ _ earlier
  · next fails => exact ⟨fun _ _ _ holds => fails holds.2, nofun⟩

/-- Two lists of entries, none of the second before one of the first. -/
theorem Finds.or {fails' : TableId → Nat → Prop} {x y : Option (TableId × Nat)} (h : Finds fails x) (h' : Finds fails' y)
    (order : ∀ table n table' n', fails table n → fails' table' n' → ¬entryBefore table' n' table n) :
    Finds (fun table n => fails table n ∨ fails' table n) (x.or y) := by
  cases x with
  | none =>
    have none := h.nothing rfl
    refine ⟨fun nothing table n => ?_, fun table n found => ?_⟩
    · exact not_or.mpr ⟨none table n, h'.nothing nothing table n⟩
    · obtain ⟨holds, earlier⟩ := h'.first table n found
      exact ⟨.inr holds, fun table' n' before => not_or.mpr ⟨none table' n', earlier table' n' before⟩⟩
  | some a =>
    refine ⟨nofun, fun table n found => ?_⟩
    obtain ⟨holds, earlier⟩ := h.first table n found
    exact ⟨.inl holds, fun table' n' before =>
      not_or.mpr ⟨earlier table' n' before, fun holds' => order _ _ _ _ holds holds' before⟩⟩

theorem Finds.congr {fails' : TableId → Nat → Prop} {x : Option (TableId × Nat)} (h : Finds fails x)
    (same : ∀ table n, fails' table n ↔ fails table n) : Finds fails' x :=
  (funext fun table => funext fun n => propext (same table n) : fails' = fails) ▸ h

end

end Sys2Proof.Machine
end

section
namespace Sys2Proof.Machine

/-! ### The slots examined -/

/-- The entry that a slot stands at. -/
def Examined.position (x : Examined) : TableId × Nat := (x.table, x.entry)

section
variable (t : Tables) {fails : TableId → Nat → Prop}

/-- Passes over the slots of the slot sets. -/
theorem Tables.finds_slot {bad : Examined → Bool} (h : ∀ table n, fails table n ↔ table = .slot ∧ ∃ x, t.Examines x ∧ x.entry = n ∧
    bad x = true) : Finds fails ((t.examinedSlots.find? bad).map Examined.position) := by
  refine (picksFirst_find (fun _ => Iff.rfl) _).finds t.examinedSlots_sorted fun table n => (h table n).trans ?_
  constructor
  · rintro ⟨rfl, x, examined, rfl, holds⟩
    exact ⟨x, (t.mem_examinedSlots x).mpr examined, Prod.ext examined.table_eq rfl, holds⟩
  · rintro ⟨x, member, place, holds⟩
    have examined := (t.mem_examinedSlots x).mp member
    obtain ⟨rfl, rfl⟩ := Prod.mk.inj place
    exact ⟨examined.table_eq, x, examined, rfl, holds⟩

/-- Passes over the slots whose placements are examined. -/
theorem Tables.finds_place {bad : Examined → Bool} {Bad : Examined → Prop} (same : ∀ x, bad x = true ↔ Bad x)
    (h : ∀ table n, fails table n ↔ ∃ x, t.Places x ∧ x.table = table ∧ x.entry = n ∧ Bad x) :
    Finds fails ((t.examinedAll.find? bad).map Examined.position) := by
  refine (picksFirst_find same _).finds t.examinedAll_sorted fun table n => (h table n).trans ?_
  constructor
  · rintro ⟨x, places, rfl, rfl, holds⟩
    exact ⟨x, (t.mem_examinedAll x).mpr places, rfl, holds⟩
  · rintro ⟨x, member, place, holds⟩
    obtain ⟨rfl, rfl⟩ := Prod.mk.inj place
    exact ⟨x, (t.mem_examinedAll x).mp member, rfl, rfl, holds⟩

/-- Passes over the placements of the examined slots, one by one. -/
theorem Tables.finds_placement {bad : Examined → Placement → Bool} {Bad : Examined → Placement → Prop}
    (same : ∀ x p, bad x p = true ↔ Bad x p) :
    Finds (fun table n => ∃ x j p, t.NamesAt table n x j p ∧ Bad x p)
      ((t.examinedAll.find? fun x => (t.placed x).any (bad x)).map Examined.position) := by
  have any : ∀ x, (t.placed x).any (bad x) = true ↔ ∃ j p, t.Names x j p ∧ Bad x p := fun x => by
    simp only [List.any_eq_true, t.mem_placed, same]
    exact ⟨fun ⟨p, ⟨j, names⟩, holds⟩ => ⟨j, p, names, holds⟩, fun ⟨j, p, names, holds⟩ => ⟨p, ⟨j, names⟩, holds⟩⟩
  refine t.finds_place any fun table n => ?_
  constructor
  · rintro ⟨x, j, p, ⟨places, here, entry, names⟩, holds⟩
    exact ⟨x, places, here, entry, j, p, names, holds⟩
  · rintro ⟨x, places, here, entry, j, p, names, holds⟩
    exact ⟨x, j, p, ⟨places, here, entry, names⟩, holds⟩

/-- A condition on the pairs of placements of a run, the earlier first. -/
theorem Tables.pairwise_placed (x : Examined) {R : Placement → Placement → Prop} :
    (t.placed x).Pairwise R ↔ ∀ i j p q, i < j → t.Names x i p → t.Names x j q → R p q := by
  have read : ∀ j p, t.placements.get? (x.first + j) = some p ↔ ∃ i : Fin 384, i.val = x.first + j ∧ t.placements.get i = p := by
    intro j p
    rw [Tab.get?_eq]
    constructor
    · intro found
      obtain ⟨inside, found⟩ := Option.dite_none_right_eq_some.mp found
      exact ⟨⟨_, inside⟩, rfl, Option.some.inj found⟩
    · rintro ⟨i, place, rfl⟩
      rw [← place, dif_pos i.isLt]
  rw [Tables.placed, Tables.run, List.pairwise_filterMap]
  simp only [List.pairwise_iff_getElem, List.length_range, List.getElem_range, read]
  constructor
  · rintro h i j p q less ⟨hi, first⟩ ⟨hj, second⟩
    exact h i j hi hj less p first q second
  · intro h i j hi hj less p first q second
    exact h i j p q less ⟨hi, first⟩ ⟨hj, second⟩

theorem somePair_iff {α : Type} {r : α → α → Bool} {l : List α} : somePair r l = true ↔ ¬l.Pairwise fun a b => ¬r a b = true := by
  induction l with
  | nil => simp [somePair]
  | cons a l ih =>
    rw [somePair, Bool.or_eq_true, ih, List.pairwise_cons, not_and_or]
    simp

/-- Some two placements of a slot stand in a relation. -/
theorem Tables.somePair_placed (x : Examined) {r : Placement → Placement → Bool} : somePair r (t.placed x) = true ↔
    ∃ i j p q, i < j ∧ t.Names x i p ∧ t.Names x j q ∧ r p q = true := by
  rw [somePair_iff, t.pairwise_placed]
  simp only [not_forall, not_not, exists_prop]

end

/-! ### Areas (passes 1 and 2) -/

section
variable (t : Tables)

/-- R6: two entries share an index. -/
theorem AreaEntry.overlaps_iff (a b : AreaEntry) : a.overlaps b = true ↔ a.enabled = true ∧ b.enabled = true ∧
    ∃ s, a.first ≤ s ∧ s ≤ a.last ∧ b.first ≤ s ∧ s ≤ b.last := by
  simp only [AreaEntry.overlaps, AreaEntry.bounded, Bool.and_eq_true, decide_eq_true_eq]
  constructor
  · rintro ⟨⟨⟨⟨ea, oa⟩, eb, ob⟩, ab⟩, ba⟩
    exact ⟨ea, eb, max a.first b.first, le_max_left _ _, max_le oa ba, le_max_right _ _, max_le ab ob⟩
  · rintro ⟨ea, eb, s, a1, a2, b1, b2⟩
    exact ⟨⟨⟨⟨ea, a1.trans a2⟩, eb, b1.trans b2⟩, a1.trans b2⟩, b1.trans a2⟩

theorem Tables.finds_areaOverlap : Finds (t.Fails .areaOverlap) (t.failAreaOverlap.map fun n => (.area, n)) := by
  refine finds_index fun table n => and_congr_right fun _ => ?_
  simp only [List.any_eq_true, Bool.and_eq_true, decide_eq_true_eq, AreaEntry.overlaps_iff]
  constructor
  · rintro ⟨i, j, place, less, shared⟩
    exact ⟨j, place, i, List.mem_finRange i, less, shared⟩
  · rintro ⟨j, place, i, -, less, shared⟩
    exact ⟨i, j, place, less, shared⟩

theorem Tables.finds_areaBounds : Finds (t.Fails .areaBounds) (t.failAreaBounds.map fun n => (.area, n)) :=
  finds_index fun table n => and_congr_right fun _ => by simp only [Bool.and_eq_true, decide_eq_true_eq]

/-! ### Slots (passes 3 and 4) -/

/-- The slots before a slot in a list in the order of R159. -/
theorem mem_before {front back : List Examined} {x : Examined} (sorted : (front ++ x :: back).Pairwise Examined.before)
    (y : Examined) : y ∈ front ↔ y ∈ front ++ x :: back ∧ y.before x := by
  obtain ⟨-, -, earlier⟩ := List.pairwise_append.mp sorted
  exact ⟨fun member => ⟨List.mem_append_left _ member, earlier y member x List.mem_cons_self⟩,
    fun ⟨member, before⟩ => mem_front entryBefore_asymm sorted member before⟩

theorem Tables.finds_slotTagDup : Finds (t.Fails .slotTagDup)
    ((firstFailing tagDup [] t.examinedSlots).map Examined.position) := by
  have sorted := t.examinedSlots_sorted
  have picks : PicksFirst (fun x => ∃ y, t.Examines y ∧ y.before x ∧ y.set = x.set ∧ y.tag = x.tag) t.examinedSlots
      (firstFailing tagDup [] t.examinedSlots) := by
    refine picksFirst_firstFailing [] _ fun front x back place => ?_
    rw [place] at sorted
    simp only [tagDup, List.nil_append, List.any_eq_true, Bool.and_eq_true, beq_iff_eq, mem_before sorted, ← place, t.mem_examinedSlots,
      and_assoc]
  refine picks.finds sorted fun table n => ?_
  constructor
  · rintro ⟨rfl, x, y, examined, earlier, rfl, less, same⟩
    exact ⟨x, (t.mem_examinedSlots x).mpr examined, Prod.ext examined.table_eq rfl, y, earlier,
      .inr ⟨earlier.table_eq.trans examined.table_eq.symm, less⟩, same⟩
  · rintro ⟨x, member, place, y, earlier, before, same⟩
    have examined := (t.mem_examinedSlots x).mp member
    obtain ⟨rfl, rfl⟩ := Prod.mk.inj place
    refine ⟨examined.table_eq, x, y, examined, earlier, rfl, ?_, same⟩
    obtain before | ⟨-, less⟩ := before
    · rw [examined.table_eq, earlier.table_eq] at before
      exact absurd before (lt_irrefl _)
    · exact less

theorem Tables.finds_slotLength : Finds (t.Fails .slotLength) ((t.examinedSlots.find? lengthZero).map Examined.position) :=
  t.finds_slot fun table n => by simp only [Tables.Fails, lengthZero, Bool.and_eq_true, beq_iff_eq]

/-! ### Placements (passes 5 to 11) -/

theorem inPlacement_iff (p : Placement) : inPlacement p = true ↔ p.direction = .inbound := beq_iff_eq

theorem not_inPlacement_iff (p : Placement) : (!inPlacement p) = true ↔ p.direction = .outbound := by
  unfold inPlacement
  cases p.direction <;> simp

theorem Tables.finds_placeField : Finds (t.Fails .placeField) ((t.examinedAll.find? t.placeField).map Examined.position) := by
  refine t.finds_place (fun x => ?_) fun table n => Iff.rfl
  simp only [Tables.placeField, Bool.or_eq_true, decide_eq_true_eq, List.any_eq_true, beq_iff_eq, bne_iff_ne, t.mem_placed, or_assoc]
  exact or_congr_right ⟨fun ⟨p, ⟨j, names⟩, holds⟩ => ⟨j, p, names, holds⟩, fun ⟨j, p, names, holds⟩ => ⟨p, ⟨j, names⟩, holds⟩⟩

theorem Tables.finds_placeOwner : Finds (t.Fails .placeOwner) ((t.examinedAll.find? t.placeOwner).map Examined.position) := by
  refine (t.finds_placement fun x p => ?_ : Finds _ ((t.examinedAll.find? t.placeOwner).map _)).congr fun table n => Iff.rfl
  rw [Bool.and_eq_true, inPlacement_iff, Bool.not_eq_true', ← Bool.not_eq_true, t.ownedBy_assigns]
  rfl

/-- R25: two fields of some width share a payload bit. -/
theorem Placement.overlaps_iff {p q : Placement} (hp : p.width ≠ 0) (hq : q.width ≠ 0) : p.overlaps q = true ↔
    ∃ b, p.offset ≤ b ∧ b < p.offset + p.width ∧ q.offset ≤ b ∧ b < q.offset + q.width := by
  simp only [Placement.overlaps, Bool.and_eq_true, decide_eq_true_eq]
  constructor
  · rintro ⟨pq, qp⟩
    exact ⟨max p.offset q.offset, by omega, by omega, by omega, by omega⟩
  · rintro ⟨b, p1, p2, q1, q2⟩
    omega

/-- A field of width 0 shares no bit; pass 5 refuses it before pass 7 is taken. -/
theorem Tables.finds_placeOverlap (fields : ∀ table n, ¬t.Fails .placeField table n) :
    Finds (t.Fails .placeOverlap) ((t.examinedAll.find? t.placeOverlap).map Examined.position) := by
  have width : ∀ {x j p}, t.Places x → t.Names x j p → p.width ≠ 0 := fun {x j p} places names zero =>
    fields x.table x.entry ⟨x, places, rfl, rfl, .inr ⟨j, p, names, .inl zero⟩⟩
  refine t.finds_place (fun x => t.somePair_placed x) fun table n => ?_
  constructor
  · rintro ⟨x, i, j, p, q, ⟨places, here, entry, first⟩, ⟨-, -, -, second⟩, less, shared⟩
    exact ⟨x, places, here, entry, i, j, p, q, less, first, second,
      (Placement.overlaps_iff (width places first) (width places second)).mpr shared⟩
  · rintro ⟨x, places, here, entry, i, j, p, q, less, first, second, overlap⟩
    exact ⟨x, i, j, p, q, ⟨places, here, entry, first⟩, ⟨places, here, entry, second⟩, less,
      (Placement.overlaps_iff (width places first) (width places second)).mp overlap⟩

theorem Tables.finds_placeSelector :
    Finds (t.Fails .placeSelector) ((t.examinedAll.find? t.placeSelector).map Examined.position) :=
  t.finds_placement (Bad := fun _ p => p.direction = .inbound ∧ p.addr.selector ≠ none) fun x p => by
    rw [Bool.and_eq_true, inPlacement_iff, Option.isSome_iff_ne_none]

theorem Tables.finds_placeConv : Finds (t.Fails .placeConv) ((t.examinedAll.find? t.placeConv).map Examined.position) := by
  refine Finds.congr (t.finds_placement (Bad := fun _ p => ∃ c, p.conversion = some c ∧ ((t.conversions.get c).enabled = false ∨
    (p.direction = .inbound ∧ (0 < (t.conversions.get c).lo ∨ (t.conversions.get c).hi < 0)))) fun x p => ?_) fun table n => ?_
  · cases p.conversion with
    | none => simp
    | some c => simp [inPlacement_iff, -not_and]
  · simp only [Tables.Fails, exists_and_left]

theorem Tables.finds_placeGate : Finds (t.Fails .placeGate) ((t.examinedAll.find? t.placeGate).map Examined.position) := by
  refine Finds.congr (t.finds_placement (Bad := fun _ p => ∃ g, p.gate = some g ∧
    (p.direction = .inbound ∨ (t.gates.get g).enabled = false)) fun x p => ?_) fun table n => ?_
  · cases p.gate with
    | none => simp
    | some g => simp [inPlacement_iff]
  · simp only [Tables.Fails, exists_and_left]

theorem Tables.finds_placeSafe : Finds (t.Fails .placeSafe) ((t.examinedAll.find? t.placeSafe).map Examined.position) :=
  t.finds_placement (Bad := fun _ p => p.direction = .outbound ∧ 2 ^ p.width ≤ p.safe.toNat) fun x p => by
    rw [Bool.and_eq_true, not_inPlacement_iff, decide_eq_true_eq]

/-! ### Writers (pass 12) -/

/-- R83: the profiles' slots are SLOT entries 0 to 63. -/
theorem Tables.Places.profile_iff {t : Tables} {x : Examined} (h : t.Places x) :
    (∃ a, x.set = .profile a) ↔ x.table = .slot ∧ x.entry < 64 := by
  obtain (⟨p, k, -, -, rfl⟩ | ⟨k, -, rfl⟩ | ⟨k, -, rfl⟩) | rfl | rfl | rfl := h
  · exact iff_of_true ⟨_, rfl⟩ ⟨rfl, by simp only; omega⟩
  · exact iff_of_false nofun fun h => absurd h.2 (Nat.not_lt.mpr (Nat.le_add_right 64 _))
  · exact iff_of_false nofun fun h => absurd h.2 (Nat.not_lt.mpr (Nat.le_add_right_of_le (by decide : 64 ≤ 80)))
  all_goals exact iff_of_false nofun nofun

/-- Before a profile's slot stand slots of profiles alone. -/
theorem Tables.Places.profile_of_before {t : Tables} {x y : Examined} (hy : t.Places y) (hx : t.Places x) (before : y.before x)
    {b : Nat} (set : x.set = .profile b) : ∃ a, y.set = .profile a := by
  obtain ⟨slot, below⟩ := hx.profile_iff.mp ⟨b, set⟩
  refine hy.profile_iff.mpr ?_
  obtain earlier | ⟨same, less⟩ := before
  · exfalso
    rw [slot] at earlier
    have table : y.table = .slot ∨ y.table = .trolley := by
      obtain examined | rfl | rfl | rfl := hy
      · exact .inl examined.table_eq
      all_goals exact .inr rfl
    obtain table | table := table <;> rw [table] at earlier <;> exact absurd earlier (by decide)
  · exact ⟨same.trans slot, less.trans below⟩

/-- R159: no two profiles conflict. -/
theorem mayConflict_iff {t : Tables} {x y : Examined} (hy : t.Places y) (hx : t.Places x) (before : y.before x) :
    mayConflict y x = true ↔ ∀ a b, y.set = .profile a → x.set = .profile b → a = b := by
  cases set : x.set with
  | profile b =>
    obtain ⟨a, set'⟩ := hy.profile_of_before hx before set
    simp [mayConflict, set, set']
  | cab | festoon | trolley => simp [mayConflict, set]

/-- The claims of a slot: the signals of its IN placements. -/
theorem Tables.mem_claims (x : Examined) (i : SigIx) : i ∈ t.claims x ↔
    ∃ j p, t.Names x j p ∧ p.direction = .inbound ∧ p.addr.base = i := by
  simp only [Tables.claims, writtenSignals, List.mem_map, List.mem_filter, beq_iff_eq, t.mem_placed]
  constructor
  · rintro ⟨p, ⟨⟨j, names⟩, inbound⟩, base⟩
    exact ⟨j, p, names, inbound, base⟩
  · rintro ⟨j, p, names, inbound, base⟩
    exact ⟨p, ⟨⟨j, names⟩, inbound⟩, base⟩

/-- Two claims of one slot on a signal. -/
theorem Tables.somePair_claims (x : Examined) : somePair (fun i j => i == j) (t.claims x) = true ↔
    ∃ i j p q, i < j ∧ t.Names x i p ∧ t.Names x j q ∧ p.direction = .inbound ∧ q.direction = .inbound ∧ p.addr.base = q.addr.base := by
  rw [somePair_iff, Tables.claims, writtenSignals, List.pairwise_map, List.pairwise_filter, t.pairwise_placed]
  simp only [not_forall, not_not, exists_prop, beq_iff_eq]

/-- R25, R159: a slot one of whose claims conflicts with a claim before it. -/
theorem Tables.writerDup_iff {front back : List Examined} {x : Examined} (place : t.examinedAll = front ++ x :: back) :
    t.writerDup front x = true ↔ ∃ j p, t.Names x j p ∧ p.direction = .inbound ∧ t.Conflicts x j p := by
  have sorted := t.examinedAll_sorted
  rw [place] at sorted
  have member : t.Places x := (t.mem_examinedAll x).mp (by simp [place])
  have earlier : ∀ y, y ∈ front ↔ t.Places y ∧ y.before x := fun y => by rw [mem_before sorted, ← place, t.mem_examinedAll]
  simp only [Tables.writerDup, Bool.or_eq_true, t.somePair_claims, List.any_eq_true, Bool.and_eq_true, List.contains_iff_mem,
    t.mem_claims, earlier]
  constructor
  · rintro (⟨i, j, q, p, less, first, second, dq, dp, base⟩ | ⟨y, ⟨places, before⟩, conflict, _, ⟨i, q, first, dq, rfl⟩,
      j, p, second, dp, base⟩)
    · exact ⟨j, p, second, dp, x, i, q, member, first, dq, base, .inl ⟨rfl, less⟩⟩
    · exact ⟨j, p, second, dp, y, i, q, places, first, dq, base.symm, .inr ⟨before, (mayConflict_iff places member before).mp conflict⟩⟩
  · rintro ⟨j, p, second, dp, y, i, q, places, first, dq, base, ⟨rfl, less⟩ | ⟨before, sets⟩⟩
    · exact .inl ⟨i, j, q, p, less, first, second, dq, dp, base⟩
    · exact .inr ⟨y, ⟨places, before⟩, (mayConflict_iff places member before).mpr sets, _, ⟨i, q, first, dq, rfl⟩,
        j, p, second, dp, base.symm⟩

theorem Tables.finds_writerDup : Finds (t.Fails .writerDup)
    ((firstFailing t.writerDup [] t.examinedAll).map Examined.position) := by
  have picks : PicksFirst (fun x => ∃ j p, t.Names x j p ∧ p.direction = .inbound ∧ t.Conflicts x j p) t.examinedAll
      (firstFailing t.writerDup [] t.examinedAll) :=
    picksFirst_firstFailing [] _ fun front x back place => t.writerDup_iff place
  refine picks.finds t.examinedAll_sorted fun table n => ?_
  constructor
  · rintro ⟨x, j, p, ⟨places, rfl, rfl, names⟩, holds⟩
    exact ⟨x, (t.mem_examinedAll x).mpr places, rfl, j, p, names, holds⟩
  · rintro ⟨x, member, place, j, p, names, holds⟩
    obtain ⟨rfl, rfl⟩ := Prod.mk.inj place
    exact ⟨x, j, p, ⟨(t.mem_examinedAll x).mp member, rfl, rfl, names⟩, holds⟩

end

end Sys2Proof.Machine
end

section
namespace Sys2Proof.Machine
variable (t : Tables)

/-! ### Profiles and the cycle budget (passes 13 to 15) -/

theorem Tables.finds_profileDup : Finds (t.Fails .profileCodeDup) (t.failProfileDup.map fun n => (.profile, n)) := by
  refine finds_index fun table n => and_congr_right fun _ => ?_
  simp only [List.any_eq_true, Bool.and_eq_true, decide_eq_true_eq, beq_iff_eq]
  constructor
  · rintro ⟨p, q, place, less, ep, eq, code⟩
    exact ⟨q, place, eq, p, List.mem_finRange p, ⟨less, ep⟩, code⟩
  · rintro ⟨q, place, eq, p, -, ⟨less, ep⟩, code⟩
    exact ⟨p, q, place, less, ep, eq, code⟩

theorem Tables.failProfileNone_eq : (t.failProfileNone.map fun n => (TableId.profile, n)) =
    (if ((t.lines.get 0).enabled && (indices 4).all (fun p => !(t.profiles.get p).enabled)) = true then some (.profile, 0)
      else none).or ((((indices 4).find? fun p => (t.profiles.get p).enabled &&
        !(t.profileSlots p).any fun m => m.enabled && m.direction == .inbound).map (·.val)).map fun n => (.profile, n)) := by
  unfold Tables.failProfileNone
  split <;> rfl

/-- R118: no enabled slot of a profile is an IN slot. -/
theorem Tables.noInbound_iff (p : ProfileIx) : (!(t.profileSlots p).any fun m => m.enabled && m.direction == .inbound) = true ↔
    ∀ k, (t.masterSlots.get (profileEntry p k)).enabled = true → (t.masterSlots.get (profileEntry p k)).direction = .outbound := by
  have outbound : ∀ d : Direction, ¬d = .inbound ↔ d = .outbound := fun d => by cases d <;> simp
  simp only [Tables.profileSlots, List.any_map, Bool.not_eq_true', ← Bool.not_eq_true, List.any_eq_true, Function.comp, Bool.and_eq_true,
    beq_iff_eq, not_exists, not_and, outbound]
  exact ⟨fun h k => h k (List.mem_finRange k), fun h k _ => h k⟩

theorem Tables.finds_profileNone : Finds (t.Fails .profileNone) (t.failProfileNone.map fun n => (.profile, n)) := by
  have none := finds_ite (((t.lines.get 0).enabled && (indices 4).all (fun p => !(t.profiles.get p).enabled)) = true) .profile 0
  have each := finds_index (table := .profile) (bad := fun p : ProfileIx => (t.profiles.get p).enabled &&
    !(t.profileSlots p).any fun m => m.enabled && m.direction == .inbound) fun _ _ => Iff.rfl
  rw [t.failProfileNone_eq]
  refine (none.or each ?_).congr fun table n => ?_
  · rintro table n table' n' ⟨⟨rfl, rfl⟩, -⟩ ⟨rfl, -⟩ (code | ⟨-, less⟩)
    · exact lt_irrefl _ code
    · exact Nat.not_lt_zero _ less
  · have disabled : (indices 4).all (fun p => !(t.profiles.get p).enabled) = true ↔ ∀ p, (t.profiles.get p).enabled = false := by
      simp [indices]
    simp only [Tables.Fails, Bool.and_eq_true, t.noInbound_iff, disabled, and_assoc, and_or_left]

/-- R104: the sum of a set's budgets. -/
theorem setBudget_eq (b : Nat) (ms : List MasterSlot) : setBudget b ms = (ms.map (MasterSlot.budget b)).sum := by
  induction ms with
  | nil => rfl
  | cons m ms ih =>
    have own : m.budget b = if m.enabled then slotBudget b m else 0 := rfl
    rw [List.map_cons, List.sum_cons, ← ih, own]
    cases enabled : m.enabled <;> simp [setBudget, enabled]

theorem overBudget_iff (e : LineEntry) (slots : SlotIx → MasterSlot) :
    overBudget e ((indices 16).map slots) = true ↔ e.Exceeded slots := by
  rw [overBudget, Bool.and_eq_true, decide_eq_true_eq, setBudget_eq, List.map_map]
  rfl

theorem Tables.failBudget_eq : t.failBudget = (if overBudget (t.lines.get 1) t.cabSlots = true then some (.line, 1) else none).or
    ((((indices 4).find? fun p => (t.profiles.get p).enabled && overBudget (t.lines.get 0) (t.profileSlots p)).map (·.val)).map
      fun n => (.profile, n)) := by
  unfold Tables.failBudget
  split
  · rfl
  · rw [Option.map_map]; rfl

theorem Tables.finds_budget : Finds (t.Fails .cycleBudget) t.failBudget := by
  have cab := finds_ite (overBudget (t.lines.get 1) t.cabSlots = true) .line 1
  have each := finds_index (table := .profile) (bad := fun p : ProfileIx =>
    (t.profiles.get p).enabled && overBudget (t.lines.get 0) (t.profileSlots p)) fun _ _ => Iff.rfl
  rw [t.failBudget_eq]
  refine (cab.or each ?_).congr fun table n => ?_
  · rintro table n table' n' ⟨⟨rfl, rfl⟩, -⟩ ⟨rfl, -⟩ (code | ⟨same, -⟩)
    · exact absurd code (by decide)
    · exact nomatch same
  · simp only [Tables.Fails, Tables.cabSlots, Tables.profileSlots, Bool.and_eq_true, overBudget_iff, and_assoc]

/-! ### Gates and terms (passes 16 to 20) -/

/-- A condition on the enabled gates. -/
theorem Tables.finds_gate {bad : GateIx → Gate → Bool} {Bad : GateIx → Prop} (same : ∀ g, bad g (t.gates.get g) = true ↔ Bad g) :
    Finds (fun table n => table = .gate ∧ ∃ g : GateIx, g.val = n ∧ (t.gates.get g).enabled = true ∧ Bad g)
      ((t.failGate bad).map fun n => (.gate, n)) :=
  finds_index fun table n => by simp only [Bool.and_eq_true, same]

theorem Tables.finds_gateTerms :
    Finds (t.Fails .gateTerms) ((t.failGate fun _ g => g.termCount == 0).map fun n => (.gate, n)) :=
  t.finds_gate (Bad := fun g => (t.gates.get g).termCount = 0) fun _ => beq_iff_eq

theorem Tables.finds_gateOutput : Finds (t.Fails .gateOutput) ((t.failGate t.gateOutput).map fun n => (.gate, n)) := by
  refine t.finds_gate (Bad := fun g => ¬t.Assigns .gate (t.gates.get g).output ∨
    ∃ h : GateIx, h < g ∧ (t.gates.get h).enabled = true ∧ (t.gates.get h).output = (t.gates.get g).output) fun g => ?_
  simp only [Tables.gateOutput, Bool.or_eq_true, Bool.not_eq_true', ← Bool.not_eq_true, t.ownedBy_assigns, List.any_eq_true,
    Bool.and_eq_true, decide_eq_true_eq, beq_iff_eq, and_assoc]
  exact or_congr_right ⟨fun ⟨h, _, holds⟩ => ⟨h, holds⟩, fun ⟨h, holds⟩ => ⟨h, List.mem_finRange h, holds⟩⟩

theorem Tables.not_assigned_iff (i : SigIx) : (!t.assigned i) = true ↔ ∀ o, ¬t.Assigns o i := by
  rw [Bool.not_eq_true', ← Bool.not_eq_true, t.assigned_assigns, not_exists]

theorem Tables.finds_gateRearm : Finds (t.Fails .gateRearm) ((t.failGate fun _ g => t.gateRearm g).map fun n => (.gate, n)) := by
  refine t.finds_gate (Bad := fun g => (t.gates.get g).latching = true ∧
    ∀ a, (t.gates.get g).rearm = some a → a.selector ≠ none ∨ ∀ o, ¬t.Assigns o a.base) fun g => ?_
  rw [Tables.gateRearm, Bool.and_eq_true]
  cases (t.gates.get g).rearm with
  | none => simp
  | some a => simp [-Bool.not_eq_eq_eq_not, t.not_assigned_iff, Option.isSome_iff_ne_none]

/-- R40: the terms a gate uses. -/
theorem Tables.mem_usedTerms (g : GateIx) (x : Nat × Term) : x ∈ t.usedTerms g ↔
    ∃ j : Fin 256, g.val * 8 ≤ j.val ∧ j.val < g.val * 8 + (t.gates.get g).termCount ∧ x = (j.val, t.terms.get j) := by
  simp only [Tables.usedTerms, List.mem_filterMap, List.mem_range, Option.map_eq_some_iff, Tab.get?_eq]
  constructor
  · rintro ⟨k, less, _, found, rfl⟩
    obtain ⟨inside, found⟩ := Option.dite_none_right_eq_some.mp found
    exact ⟨⟨_, inside⟩, Nat.le_add_right _ _, Nat.add_lt_add_left less _, Prod.ext rfl (Option.some.inj found).symm⟩
  · rintro ⟨j, first, last, rfl⟩
    have place : g.val * 8 + (j.val - g.val * 8) = j.val := Nat.add_sub_cancel' first
    refine ⟨j.val - g.val * 8, by omega, t.terms.get j, ?_, by rw [place]⟩
    simp only [place, j.isLt, dif_pos]

/-- The terms of the enabled gates. -/
theorem Tables.mem_examinedTerms (x : Nat × Term) : x ∈ t.examinedTerms ↔ ∃ g : GateIx, (t.gates.get g).enabled = true ∧
    x ∈ t.usedTerms g := by
  simp only [Tables.examinedTerms, List.mem_flatMap]
  constructor
  · rintro ⟨g, -, member⟩
    split at member
    · next enabled => exact ⟨g, enabled, member⟩
    · exact absurd member List.not_mem_nil
  · rintro ⟨g, enabled, member⟩
    exact ⟨g, List.mem_finRange g, by rwa [if_pos enabled]⟩

/-- The terms are taken in ascending index: eight at most keep the gates apart (R40). -/
theorem Tables.examinedTerms_sorted (counts : ∀ g, (t.gates.get g).termCount ≤ 8) :
    t.examinedTerms.Pairwise fun x y => x.1 < y.1 := by
  have inGate : ∀ {g : GateIx} {x}, x ∈ (if (t.gates.get g).enabled then t.usedTerms g else []) →
      g.val * 8 ≤ x.1 ∧ x.1 < g.val * 8 + 8 := fun {g x} member => by
    split at member
    · obtain ⟨j, first, last, rfl⟩ := (t.mem_usedTerms g x).mp member
      exact ⟨first, last.trans_le (Nat.add_le_add_left (counts g) _)⟩
    · exact absurd member List.not_mem_nil
  refine List.pairwise_flatMap.mpr ⟨fun g _ => ?_, (List.pairwise_lt_finRange 32).imp fun less x first y second => ?_⟩
  · split
    · rw [Tables.usedTerms, List.pairwise_filterMap]
      refine List.pairwise_lt_range.imp fun less x first y second => ?_
      obtain ⟨_, -, rfl⟩ := Option.map_eq_some_iff.mp first
      obtain ⟨_, -, rfl⟩ := Option.map_eq_some_iff.mp second
      exact Nat.add_lt_add_left less _
    · exact .nil
  · have less : _ < _ := Fin.lt_def.mp less
    obtain ⟨-, below⟩ := inGate first
    obtain ⟨above, -⟩ := inGate second
    omega

/-- A condition on the terms of the enabled gates. -/
theorem Tables.finds_term (counts : ∀ g, (t.gates.get g).termCount ≤ 8) {bad : Term → Bool} {Bad : Term → Prop}
    (same : ∀ x, bad x = true ↔ Bad x) :
    Finds (fun table n => table = .term ∧ ∃ (g : GateIx) (j : Fin 256), j.val = n ∧ (t.gates.get g).enabled = true ∧ g.val * 8 ≤ n ∧
        n < g.val * 8 + (t.gates.get g).termCount ∧ Bad (t.terms.get j))
      (((t.examinedTerms.find? fun x => bad x.2).map (·.1)).map fun n => (.term, n)) := by
  rw [Option.map_map]
  refine (picksFirst_find (fun x => same x.2) _).finds (key := fun x => (.term, x.1))
    ((t.examinedTerms_sorted counts).imp fun less => .inr ⟨rfl, less⟩) fun table n => ?_
  simp only [t.mem_examinedTerms, t.mem_usedTerms]
  constructor
  · rintro ⟨rfl, g, j, rfl, enabled, first, last, holds⟩
    exact ⟨(j.val, t.terms.get j), ⟨g, enabled, j, first, last, rfl⟩, rfl, holds⟩
  · rintro ⟨_, ⟨g, enabled, j, first, last, rfl⟩, place, holds⟩
    obtain ⟨rfl, rfl⟩ := Prod.mk.inj place
    exact ⟨rfl, g, j, rfl, enabled, first, last, holds⟩

theorem Tables.finds_termSignal (counts : ∀ g, (t.gates.get g).termCount ≤ 8) : Finds (t.Fails .termSignal)
    (((t.examinedTerms.find? fun x => t.termSignal x.2).map (·.1)).map fun n => (.term, n)) := by
  refine t.finds_term counts (Bad := fun x => x.test ≠ .gate ∧ x.test ≠ .always ∧ ∀ o, ¬t.Assigns o (x.addr.selector.getD x.addr.base))
    fun x => ?_
  have reads : x.test.reads = true ↔ x.test ≠ .gate ∧ x.test ≠ .always := by cases x.test <;> simp [Test.reads]
  rw [Tables.termSignal, Bool.and_eq_true, reads, and_assoc]
  cases x.addr.selector <;> simp only [t.not_assigned_iff, Option.getD]

theorem Tables.finds_termGate (counts : ∀ g, (t.gates.get g).termCount ≤ 8) : Finds (t.Fails .termGate)
    (((t.examinedTerms.find? fun x => t.termGate x.2).map (·.1)).map fun n => (.term, n)) := by
  refine t.finds_term counts (Bad := fun x => x.test = .gate ∧ ∀ h : GateIx, h.val = x.k.toNat → (t.gates.get h).enabled = false)
    fun x => ?_
  rw [Tables.termGate, Bool.and_eq_true, beq_iff_eq, Tab.get?_eq]
  refine and_congr_right fun _ => ?_
  by_cases inside : x.k.toNat < 32
  · rw [dif_pos inside]
    refine (Bool.not_eq_true' _).to_iff.trans ⟨fun off h same => ?_, fun off => off _ rfl⟩
    obtain rfl : h = ⟨_, inside⟩ := Fin.ext same
    exact off
  · rw [dif_neg inside]
    exact iff_of_true rfl fun h same => absurd h.isLt (same ▸ inside)

/-! ### Chains, channels and feeds (passes 21 to 23) -/

theorem Tables.someProfileHas_iff (d : Direction) (k : SlotIx) : t.someProfileHas d k = true ↔ t.ProfileHas d k := by
  simp only [Tables.someProfileHas, List.any_eq_true, Bool.and_eq_true, MasterSlot.isEnabled, beq_iff_eq]
  exact ⟨fun ⟨p, _, holds⟩ => ⟨p, holds⟩, fun ⟨p, holds⟩ => ⟨p, List.mem_finRange p, holds⟩⟩

theorem Tables.badChain_iff (c : ChainTarget) : t.badChain c = true ↔ ¬t.Serves c := by
  cases c with
  | cp k => simp only [Tables.badChain, Tables.Serves, MasterSlot.isEnabled, Bool.not_eq_true', ← Bool.not_eq_true, Bool.and_eq_true,
      beq_iff_eq]
  | sp k =>
    simp only [Tables.badChain, Tables.Serves, Bool.or_eq_true, Bool.not_eq_true', ← Bool.not_eq_true, t.someProfileHas_iff, not_and_or,
      not_not]
  | l => simp [Tables.badChain, Tables.Serves]

/-- R102: on the spreader line a profile's slot is served by a slot of its own set. -/
theorem Tables.servesSet_own (p : ProfileIx) (k : SlotIx) :
    t.ServesSet (.profile p.val) (.sp k) ↔ (t.masterSlots.get (profileEntry p k)).isEnabled .outbound = true := by
  rw [MasterSlot.isEnabled, Bool.and_eq_true, beq_iff_eq]
  constructor
  · rintro ⟨q, same, holds⟩
    rwa [Fin.ext same] at holds
  · exact fun holds => ⟨p, rfl, holds⟩

/-- R102: a chain target judged for a slot of its set. -/
theorem Tables.badSlotChain_iff {x : Examined} (h : t.Examines x) : t.badSlotChain x = true ↔
    x.direction = .inbound ∧ ∃ c, x.chain = some c ∧ ¬t.ServesSet x.set c := by
  rw [Tables.badSlotChain, Bool.and_eq_true, beq_iff_eq]
  refine and_congr_right fun _ => ?_
  cases x.chain with
  | none => simp
  | some c =>
    simp only [Option.some.injEq, exists_eq_left']
    have set : (∃ p : ProfileIx, x.set = .profile p.val) ∨ x.set = .cab ∨ x.set = .festoon := by
      obtain ⟨p, _, _, _, rfl⟩ | ⟨_, _, rfl⟩ | ⟨_, _, rfl⟩ := h
      · exact .inl ⟨p, rfl⟩
      · exact .inr (.inl rfl)
      · exact .inr (.inr rfl)
    obtain ⟨p, set⟩ | set | set := set <;> rw [set]
    · cases c with
      | sp k =>
        rw [t.servesSet_own]
        simp only [show p.val * 16 + k.val = (profileEntry p k).val from rfl, Tab.get?_val, Bool.not_eq_true', Bool.not_eq_true]
      | cp k => exact t.badChain_iff (.cp k)
      | l => exact t.badChain_iff .l
    · exact t.badChain_iff c
    · exact t.badChain_iff c

theorem Tables.failChain_eq : t.failChain = ((t.examinedSlots.find? t.badSlotChain).map Examined.position).or
    ((t.failGate fun _ g => match g.chain with
      | none => false
      | some c => t.badChain c).map fun n => (.gate, n)) := by
  unfold Tables.failChain
  split
  · next x found =>
    have slot : x.table = .slot := ((t.mem_examinedSlots x).mp (List.mem_of_find?_eq_some found)).table_eq
    rw [found, ← slot]
    rfl
  · next none =>
    rw [none]
    rfl

theorem Tables.finds_chain : Finds (t.Fails .chainTarget) t.failChain := by
  have slots : Finds (fun table n => table = .slot ∧ ∃ x c, t.Examines x ∧ x.entry = n ∧ x.direction = .inbound ∧ x.chain = some c ∧
      ¬t.ServesSet x.set c) ((t.examinedSlots.find? t.badSlotChain).map Examined.position) := by
    refine t.finds_slot fun table n => and_congr_right fun _ => exists_congr fun x => ?_
    simp only [exists_and_left]
    exact and_congr_right fun examined => and_congr_right fun _ => (t.badSlotChain_iff examined).symm
  have gates := t.finds_gate (bad := fun _ g => match g.chain with
      | none => false
      | some c => t.badChain c) (Bad := fun g => ∃ c, (t.gates.get g).chain = some c ∧ ¬t.Serves c) fun g => by
    cases (t.gates.get g).chain <;> simp [t.badChain_iff]
  rw [t.failChain_eq]
  refine (slots.or gates ?_).congr fun table n => ?_
  · rintro table n table' n' ⟨rfl, -⟩ ⟨rfl, -⟩ (code | ⟨same, -⟩)
    · exact absurd code (by decide)
    · exact nomatch same
  · simp only [Tables.Fails, exists_and_left]

/-- R136: the placements of L0. -/
theorem Tables.namesAt_l0 {x : Examined} {j : Nat} {p : Placement} : t.NamesAt .trolley 32 x j p ↔
    x = ⟨.trolley, .trolley, 32, .inbound, 0, 32, t.l0.first, t.l0.count, none⟩ ∧ t.Names x j p := by
  refine ⟨fun ⟨places, table, entry, names⟩ => ⟨?_, names⟩, fun ⟨here, names⟩ => ⟨.inr (.inl here), ?_, ?_, names⟩⟩
  · obtain examined | rfl | rfl | rfl := places
    · exact nomatch table.symm.trans examined.table_eq
    · rfl
    · exact nomatch entry
    · exact nomatch entry
  all_goals rw [here]

theorem Tables.finds_channel : Finds (t.Fails .channelOff) (t.failChannel.map fun n => (.trolley, n)) := by
  have run : t.lRun t.l0 = t.placed ⟨.trolley, .trolley, 32, .inbound, 0, 32, t.l0.first, t.l0.count, none⟩ := rfl
  refine finds_index fun table n => and_congr_right fun _ => exists_congr fun c => and_congr_right fun _ => ?_
  simp only [Bool.and_eq_true, Bool.not_eq_true', List.any_eq_true, Placement.reads, decide_eq_true_eq, run, t.mem_placed,
    t.namesAt_l0]
  refine and_congr_right fun _ => ?_
  constructor
  · rintro ⟨x, j, p, ⟨rfl, names⟩, reads⟩
    exact ⟨p, ⟨j, names⟩, reads⟩
  · rintro ⟨p, ⟨j, names⟩, reads⟩
    exact ⟨_, j, p, ⟨rfl, names⟩, reads⟩

theorem Tables.failFeed_eq : (t.failFeed.map fun n => (TableId.feed, n)) =
    (if ((t.feeds.get 0).enabled && !(t.channels.get 15).enabled) = true then some (.feed, 0) else none).or
      (if ((t.feeds.get 1).enabled && !(t.channels.get 14).enabled) = true then some (.feed, 1) else none) := by
  unfold Tables.failFeed
  split
  · rfl
  · split <;> rfl

theorem Tables.finds_feed : Finds (t.Fails .feedChannel) (t.failFeed.map fun n => (.feed, n)) := by
  rw [t.failFeed_eq]
  refine ((finds_ite _ .feed 0).or (finds_ite _ .feed 1) ?_).congr fun table n => ?_
  · rintro table n table' n' ⟨⟨rfl, rfl⟩, -⟩ ⟨⟨rfl, rfl⟩, -⟩ (code | ⟨-, less⟩)
    · exact lt_irrefl _ code
    · exact Nat.not_lt_zero _ less
  · simp only [Tables.Fails, Bool.and_eq_true, Bool.not_eq_true', and_or_left, and_assoc]

end Sys2Proof.Machine
end

section
namespace Sys2Proof.Machine

/-! ### The passes in the order of the reasons (R73, R158) -/

/-- The reasons in the order of R73. -/
def invalidReasons : List InvalidReason :=
  [.areaOverlap, .areaBounds, .slotTagDup, .slotLength, .placeField, .placeOwner, .placeOverlap, .placeSelector, .placeConv,
    .placeGate, .placeSafe, .writerDup, .profileCodeDup, .profileNone, .cycleBudget, .gateTerms, .termSignal, .termGate, .gateOutput,
    .gateRearm, .chainTarget, .channelOff, .feedChannel]

theorem mem_invalidReasons (r : InvalidReason) : r ∈ invalidReasons := by cases r <;> decide

theorem invalidReasons_sorted : invalidReasons.Pairwise fun r r' => reasonCode r < reasonCode r' := by decide

theorem reasonCode_injective : Function.Injective reasonCode := fun _ _ same =>
  List.inj_on_of_nodup_map (f := reasonCode) (l := invalidReasons) (by decide) (mem_invalidReasons _) (mem_invalidReasons _) same

/-- The entry that the pass of a reason names. -/
def Tables.pass (t : Tables) : InvalidReason → Option (TableId × Nat)
  | .areaOverlap => t.failAreaOverlap.map fun n => (.area, n)
  | .areaBounds => t.failAreaBounds.map fun n => (.area, n)
  | .slotTagDup => (firstFailing tagDup [] t.examinedSlots).map Examined.position
  | .slotLength => (t.examinedSlots.find? lengthZero).map Examined.position
  | .placeField => (t.examinedAll.find? t.placeField).map Examined.position
  | .placeOwner => (t.examinedAll.find? t.placeOwner).map Examined.position
  | .placeOverlap => (t.examinedAll.find? t.placeOverlap).map Examined.position
  | .placeSelector => (t.examinedAll.find? t.placeSelector).map Examined.position
  | .placeConv => (t.examinedAll.find? t.placeConv).map Examined.position
  | .placeGate => (t.examinedAll.find? t.placeGate).map Examined.position
  | .placeSafe => (t.examinedAll.find? t.placeSafe).map Examined.position
  | .writerDup => (firstFailing t.writerDup [] t.examinedAll).map Examined.position
  | .profileCodeDup => t.failProfileDup.map fun n => (.profile, n)
  | .profileNone => t.failProfileNone.map fun n => (.profile, n)
  | .cycleBudget => t.failBudget
  | .gateTerms => (t.failGate fun _ g => g.termCount == 0).map fun n => (.gate, n)
  | .termSignal => ((t.examinedTerms.find? fun x => t.termSignal x.2).map (·.1)).map fun n => (.term, n)
  | .termGate => ((t.examinedTerms.find? fun x => t.termGate x.2).map (·.1)).map fun n => (.term, n)
  | .gateOutput => (t.failGate t.gateOutput).map fun n => (.gate, n)
  | .gateRearm => (t.failGate fun _ g => t.gateRearm g).map fun n => (.gate, n)
  | .chainTarget => t.failChain
  | .channelOff => t.failChannel.map fun n => (.trolley, n)
  | .feedChannel => t.failFeed.map fun n => (.feed, n)

/-- A pass with the reason it refuses for. -/
def Tables.failure (t : Tables) (r : InvalidReason) : Option Failure := atEntry r (t.pass r)

theorem inTable_eq (table : TableId) (r : InvalidReason) (entry : Option Nat) :
    inTable table r entry = atEntry r (entry.map fun n => (table, n)) := by cases entry <;> rfl

theorem atSlot_eq (r : InvalidReason) (x : Option Examined) : atSlot r x = atEntry r (x.map Examined.position) := by cases x <;> rfl

/-- R158: the validation takes the passes in the order of the reasons. -/
theorem Tables.validate_eq (t : Tables) : t.validate = invalidReasons.findSome? t.failure := by
  have passes : t.passes = invalidReasons.map t.failure := by
    simp only [Tables.passes, inTable_eq, atSlot_eq]
    rfl
  rw [Tables.validate, passes, List.findSome?_map]
  rfl

/-- Every pass finds its reason's entries, once pass 5 has refused the fields of width 0. -/
theorem Tables.finds (t : Tables) (counts : ∀ g, (t.gates.get g).termCount ≤ 8) (r : InvalidReason)
    (earlier : ∀ r', reasonCode r' < reasonCode r → ∀ table n, ¬t.Fails r' table n) : Finds (t.Fails r) (t.pass r) :=
  match r with
  | .areaOverlap => t.finds_areaOverlap
  | .areaBounds => t.finds_areaBounds
  | .slotTagDup => t.finds_slotTagDup
  | .slotLength => t.finds_slotLength
  | .placeField => t.finds_placeField
  | .placeOwner => t.finds_placeOwner
  | .placeOverlap => t.finds_placeOverlap (earlier .placeField (by decide))
  | .placeSelector => t.finds_placeSelector
  | .placeConv => t.finds_placeConv
  | .placeGate => t.finds_placeGate
  | .placeSafe => t.finds_placeSafe
  | .writerDup => t.finds_writerDup
  | .profileCodeDup => t.finds_profileDup
  | .profileNone => t.finds_profileNone
  | .cycleBudget => t.finds_budget
  | .gateTerms => t.finds_gateTerms
  | .termSignal => t.finds_termSignal counts
  | .termGate => t.finds_termGate counts
  | .gateOutput => t.finds_gateOutput
  | .gateRearm => t.finds_gateRearm
  | .chainTarget => t.finds_chain
  | .channelOff => t.finds_channel
  | .feedChannel => t.finds_feed

/-- A pass that names nothing, after passes that named nothing: no entry fails for its reason. -/
theorem Tables.not_fails (t : Tables) (counts : ∀ g, (t.gates.get g).termCount ≤ 8) (r : InvalidReason)
    (silent : ∀ r', reasonCode r' ≤ reasonCode r → t.failure r' = none) : ∀ table n, ¬t.Fails r table n := by
  induction code : reasonCode r using Nat.strong_induction_on generalizing r with
  | _ c ih =>
    have earlier : ∀ r', reasonCode r' < reasonCode r → ∀ table n, ¬t.Fails r' table n := fun r' less =>
      ih (reasonCode r') (code ▸ less) r' (fun r'' le => silent r'' (le.trans less.le)) rfl
    exact (t.finds counts r earlier).nothing (Option.map_eq_none_iff.mp (silent r le_rfl))

/-- R158, R159: what the validation finds is the first entry that fails for the first reason of R73. -/
structure Tables.FirstFailure (t : Tables) (f : Failure) : Prop where
  fails : t.Fails f.reason f.table f.entry
  reason : ∀ reason table n, reasonCode reason < reasonCode f.reason → ¬t.Fails reason table n
  entry : ∀ table n, entryBefore table n f.table f.entry → ¬t.Fails f.reason table n

theorem Tables.not_fails_of_valid (t : Tables) (counts : ∀ g, (t.gates.get g).termCount ≤ 8) (valid : t.validate = none)
    (r : InvalidReason) : ∀ table n, ¬t.Fails r table n := by
  rw [t.validate_eq, List.findSome?_eq_none_iff] at valid
  exact t.not_fails counts r fun r' _ => valid r' (mem_invalidReasons r')

theorem Tables.firstFailure_of_invalid (t : Tables) (counts : ∀ g, (t.gates.get g).termCount ≤ 8) {f : Failure}
    (invalid : t.validate = some f) : t.FirstFailure f := by
  rw [t.validate_eq, List.findSome?_eq_some_iff] at invalid
  obtain ⟨front, r, back, place, named, silent⟩ := invalid
  have sorted := invalidReasons_sorted
  have earlier : ∀ r', reasonCode r' < reasonCode r → t.failure r' = none := fun r' less => by
    have member := mem_invalidReasons r'
    rw [place] at sorted member
    exact silent r' (mem_front (fun less => lt_asymm less) sorted member less)
  obtain ⟨⟨table, n⟩, found, rfl⟩ := Option.map_eq_some_iff.mp named
  have passed : ∀ r', reasonCode r' < reasonCode r → ∀ table n, ¬t.Fails r' table n := fun r' less =>
    t.not_fails counts r' fun r'' le => earlier r'' (le.trans_lt less)
  obtain ⟨fails, first⟩ := (t.finds counts r passed).first table n found
  exact ⟨fails, fun r' table' n' less => passed r' less table' n', first⟩

/-- There is one first failure at most. -/
theorem Tables.FirstFailure.unique {t : Tables} {f g : Failure} (hf : t.FirstFailure f) (hg : t.FirstFailure g) : f = g := by
  obtain ⟨table, n, r⟩ := f
  obtain ⟨table', n', r'⟩ := g
  obtain less | same | less := Nat.lt_trichotomy (reasonCode r) (reasonCode r')
  · exact absurd hf.fails (hg.reason _ _ _ less)
  · obtain rfl := reasonCode_injective same
    obtain before | ⟨rfl, rfl⟩ | before := entryBefore_trichotomy table table' n n'
    · exact absurd hf.fails (hg.entry _ _ before)
    · rfl
    · exact absurd hg.fails (hf.entry _ _ before)
  · exact absurd hg.fails (hf.reason _ _ _ less)

/-- R158, R159: the validation finds the first failure. -/
theorem Tables.validate_eq_some_iff (t : Tables) (counts : ∀ g, (t.gates.get g).termCount ≤ 8) (f : Failure) :
    t.validate = some f ↔ t.FirstFailure f := by
  refine ⟨t.firstFailure_of_invalid counts, fun first => ?_⟩
  cases found : t.validate with
  | none => exact absurd first.fails (t.not_fails_of_valid counts found _ _ _)
  | some g => rw [(t.firstFailure_of_invalid counts found).unique first]

/-- Settles O14: nothing is found where nothing fails, and otherwise the one first failure. -/
theorem validationFindsTheFirstFailure : Obligations.ValidationFindsTheFirstFailure := by
  refine ⟨fun t counts => ⟨⟨t.not_fails_of_valid counts, fun passes => ?_⟩, fun f => ?_⟩, rfl, rfl⟩
  · cases found : t.validate with
    | none => rfl
    | some f => exact absurd (t.firstFailure_of_invalid counts found).fails (passes _ _ _)
  · rw [t.validate_eq_some_iff counts]
    exact ⟨fun ⟨fails, reason, entry⟩ => ⟨fails, reason, entry⟩, fun ⟨fails, reason, entry⟩ => ⟨fails, reason, entry⟩⟩

end Sys2Proof.Machine
end

/-! # Proofs about events and the watch list (R171, R172, R175, R176)

What a list of raised events leaves in the queue comes first. The watch checks then raise one such list, entry after entry. -/

section
namespace Sys2Proof.Machine

/-! ### Raised events (R171, R172) -/

/-- R171: an event enters a queue that has room. -/
theorem State.raise_of_room {s : State} (e : Event) (room : s.events.length < 32) :
    s.raise e = { s with events := s.events ++ [⟨e, s.timestamp⟩] } := if_pos room

/-- R172: an event is discarded by a full queue. -/
theorem State.raise_of_full {s : State} (e : Event) (full : 32 ≤ s.events.length) : s.raise e = { s with ovf := true } :=
  if_neg (Nat.not_lt.mpr full)

/-- R171: of the events raised, those that the queue has room for enter it. -/
theorem State.raiseAll_events (s : State) (es : List Event) :
    (s.raiseAll es).events = s.events ++ (es.take (32 - s.events.length)).map fun e => ⟨e, s.timestamp⟩ := by
  induction es generalizing s with
  | nil => simp [State.raiseAll]
  | cons e es ih =>
    rw [State.raiseAll_cons, ih]
    by_cases room : s.events.length < 32
    · have left : 32 - s.events.length = (32 - (s.events.length + 1)) + 1 := by omega
      rw [State.raise_of_room e room, left]
      simp
    · have none_left : 32 - s.events.length = 0 := by omega
      rw [State.raise_of_full e (Nat.not_lt.mp room)]
      simp [none_left]

/-- R172: OVF is set as soon as one of the events finds no room. -/
theorem State.raiseAll_ovf (s : State) (es : List Event) :
    (s.raiseAll es).ovf = (s.ovf || decide (32 < s.events.length + es.length ∧ es ≠ [])) := by
  induction es generalizing s with
  | nil => simp [State.raiseAll]
  | cons e es ih =>
    rw [State.raiseAll_cons, ih]
    by_cases room : s.events.length < 32
    · rw [State.raise_of_room e room]
      congr 2
      cases es with
      | nil => simp; omega
      | cons f es => simp; omega
    · rw [State.raise_of_full e (Nat.not_lt.mp room)]
      have past : 32 < s.events.length + (e :: es).length := by rw [List.length_cons]; omega
      rw [decide_eq_true (p := 32 < s.events.length + (e :: es).length ∧ _) ⟨past, List.cons_ne_nil e es⟩]
      simp

/-- Settles O45: one event at a queue with room and at a full one, and a list of events by what each leaves to the next. -/
theorem eventsEnterOrSetOvf : Obligations.EventsEnterOrSetOvf := fun e s =>
  ⟨State.raise_of_room e, State.raise_of_full e, s.raiseAll_events, s.raiseAll_ovf⟩

/-! ### The checks of the watch list (R175, R176) -/

/-- The view that a watch entry checks. -/
def State.watchView (s : State) (w : Fin 8) : View := s.view (s.tables.watch.get w).signal

/-- R175: the report of a watch entry. -/
def State.watchReport (s : State) (w : Fin 8) : Event := .watch w (s.watchView w).quality (s.watchView w).value

/-- R175: a watch entry is enabled, its signal was touched, and its check reports. -/
def State.watchDue (s : State) (touched : SigIx → Bool) (w : Fin 8) : Bool :=
  (s.tables.watch.get w).enabled && touched (s.tables.watch.get w).signal &&
    watchReports (s.watchLast.get w) (s.watchView w) (s.tables.watch.get w).deadband

section
variable {touched : SigIx → Bool} {s : State} {w v : Fin 8}

/-- R175: an entry that has nothing to report does nothing in its turn. -/
theorem State.watchTurn_of_quiet (quiet : s.watchDue touched w = false) : s.watchTurn touched w = s := by
  unfold State.watchTurn State.checkEntry
  split
  · next enabled =>
    rw [State.watchDue, enabled, Bool.true_and] at quiet
    exact if_neg (Bool.eq_false_iff.mp quiet)
  · rfl

/-- R175, R176: an entry reports in its turn, and takes the view as last reported if its report was queued. -/
theorem State.watchTurn_of_due (due : s.watchDue touched w = true) :
    s.watchTurn touched w = { s.raise (s.watchReport w) with
      watchLast := if s.events.length < 32 then s.watchLast.set w (some ((s.watchView w).value, (s.watchView w).quality))
        else s.watchLast } := by
  obtain ⟨checked, reports⟩ := Bool.and_eq_true_iff.mp due
  rw [State.watchTurn, if_pos checked]
  refine (if_pos reports).trans ?_
  by_cases room : s.events.length < 32
  · exact (if_pos room).trans (by rw [if_pos room]; rfl)
  · exact (if_neg room).trans (by rw [if_neg room, ← State.raise_watchLast s (s.watchReport w)]; rfl)

/-- R176: what the last-reported views are after the turn of an entry that reports. -/
theorem State.watchTurn_watchLast_of_due (due : s.watchDue touched w = true) : (s.watchTurn touched w).watchLast.get w =
    if s.events.length < 32 then some ((s.watchView w).value, (s.watchView w).quality) else s.watchLast.get w := by
  rw [State.watchTurn_of_due due]
  dsimp only
  split
  · exact Tab.get_set_self _ _ _
  · rfl

/-- R171: a report takes one place of the queue, which has room for so many reports more. -/
theorem State.watchTurn_room (due : s.watchDue touched w = true) (n : Nat) :
    (s.watchTurn touched w).events.length + n < 32 ↔ s.events.length + (n + 1) < 32 := by
  rw [State.watchTurn_of_due due]
  by_cases room : s.events.length < 32
  · rw [State.raise_of_room _ room, List.length_append, List.length_singleton]; omega
  · rw [State.raise_of_full _ (Nat.not_lt.mp room)]; dsimp only; omega

/-- A turn only reports. -/
theorem State.reported_watchTurn (touched : SigIx → Bool) (s : State) (w : Fin 8) : s.Reported (s.watchTurn touched w) :=
  State.reported_watchTurns touched [w] s

/-- A turn leaves the view last reported by any other entry. -/
theorem State.watchTurn_watchLast_of_ne (other : v ≠ w) : (s.watchTurn touched w).watchLast.get v = s.watchLast.get v := by
  cases due : s.watchDue touched w with
  | false => rw [State.watchTurn_of_quiet due]
  | true =>
    rw [State.watchTurn_of_due due]
    dsimp only
    split
    · exact Tab.get_set_of_ne _ _ other
    · rfl

theorem State.Reported.watchView {s t : State} (reported : s.Reported t) (w : Fin 8) : t.watchView w = s.watchView w := by
  rw [reported.frame]; rfl

theorem State.Reported.watchReport {s t : State} (reported : s.Reported t) (w : Fin 8) : t.watchReport w = s.watchReport w := by
  rw [reported.frame]; rfl

/-- A turn leaves what any other entry has to report. -/
theorem State.watchTurn_watchDue_of_ne (other : v ≠ w) :
    (s.watchTurn touched w).watchDue touched v = s.watchDue touched v := by
  have reported := State.reported_watchTurn touched s w
  have tables : (s.watchTurn touched w).tables = s.tables := by rw [reported.frame]
  rw [State.watchDue, State.watchTurn_watchLast_of_ne other, reported.watchView, tables, State.watchDue]

end

section
variable (touched : SigIx → Bool)

/-- R175, R176: the turns of the entries in ascending order raise the reports that were due, and each entry whose report finds room takes
its view as last reported. -/
theorem State.watchTurns (ws : List (Fin 8)) (ascending : ws.Pairwise (· < ·)) (s : State) :
    let t := ws.foldl (State.watchTurn touched) s
    let due := ws.filter (s.watchDue touched)
    (t.events = (s.raiseAll (due.map s.watchReport)).events ∧ t.ovf = (s.raiseAll (due.map s.watchReport)).ovf) ∧
      ∀ w, t.watchLast.get w =
        if w ∈ due ∧ s.events.length + (due.filter fun v => v < w).length < 32 then
          some ((s.watchView w).value, (s.watchView w).quality)
        else s.watchLast.get w := by
  induction ws generalizing s with
  | nil => simp [State.raiseAll]
  | cons w ws ih =>
    obtain ⟨first, rest⟩ := List.pairwise_cons.mp ascending
    have reported := State.reported_watchTurn touched s w
    have later : ws.filter ((s.watchTurn touched w).watchDue touched) = ws.filter (s.watchDue touched) :=
      List.filter_congr fun v hv => State.watchTurn_watchDue_of_ne (first v hv).ne'
    obtain ⟨raised, last⟩ := ih rest (s.watchTurn touched w)
    simp only [later, funext reported.watchReport, reported.watchView] at raised last
    cases due : s.watchDue touched w with
    | false =>
      rw [State.watchTurn_of_quiet due] at raised last
      rw [List.foldl_cons, List.filter_cons_of_neg (by simp [due]), State.watchTurn_of_quiet due]
      exact ⟨raised, last⟩
    | true =>
      have turn := State.watchTurn_of_due due
      have same := State.raiseAll_congr (s := s.watchTurn touched w) (t := s.raise (s.watchReport w))
        ((ws.filter (s.watchDue touched)).map s.watchReport) (by rw [turn]) (by rw [turn]) (by rw [turn])
      rw [List.foldl_cons, List.filter_cons_of_pos due]
      refine ⟨⟨raised.1.trans same.1, raised.2.trans same.2⟩, fun v => ?_⟩
      rw [last]
      obtain rfl | other := eq_or_ne v w
      · have past : v ∉ ws := fun hv => lt_irrefl _ (first v hv)
        have none_before : (v :: ws.filter (s.watchDue touched)).filter (fun x => x < v) = [] := by
          simp only [List.filter_eq_nil_iff, List.mem_cons, List.mem_filter]
          rintro x (rfl | ⟨hx, -⟩)
          · simp
          · simpa using (first x hx).le
        rw [if_neg fun h => past (List.mem_filter.mp h.1).1, none_before, State.watchTurn_watchLast_of_due due]
        exact if_congr (by simp) rfl rfl
      · rw [State.watchTurn_watchLast_of_ne other]
        refine if_congr ?_ rfl rfl
        rw [List.mem_cons, or_iff_right other]
        refine and_congr_right fun hv => ?_
        have before := first v (List.mem_filter.mp hv).1
        rw [List.filter_cons_of_pos (by simpa using before), List.length_cons]
        exact State.watchTurn_room due _

end

/-- The condition of a check in the words of R175. -/
theorem watchReports_eq (last : Option (Int × ViewQuality)) (v : View) (deadband : Nat) : watchReports last v deadband =
    match last with
    | none => true
    | some last => decide (last.2 ≠ v.quality) || decide (deadband < (v.value - last.1).natAbs) := by
  cases last with
  | none => rfl
  | some last => exact congrArg (· || decide (deadband < (v.value - last.1).natAbs)) decide_not.symm

/-- Settles O46: CONFIG takes no check, and RUN takes the turns of all eight entries. -/
theorem watchEntriesReport : Obligations.WatchEntriesReport := by
  intro s touched t view reports reporting
  refine ⟨Work.close_of_config ⟨s, touched⟩, fun run => ?_⟩
  have due : reports = s.watchDue touched := funext fun w => by
    rw [State.watchDue, watchReports_eq]; rfl
  have closed : t = (indices 8).foldl (State.watchTurn touched) s := by
    simp only [t, Work.close, run, State.watchChecks_eq]
  obtain ⟨⟨events, ovf⟩, last⟩ := State.watchTurns touched (indices 8) (List.pairwise_lt_finRange 8) s
  rw [← closed, ← due] at events ovf last
  refine ⟨events, ovf, fun w => (last w).trans (if_congr ?_ rfl rfl), Work.close_frame _⟩
  rw [List.mem_filter, and_iff_right (show w ∈ indices 8 from List.mem_finRange w)]

end Sys2Proof.Machine
end

/-! # Proofs about the commands that report on the part: STATUS, READ_SIGNALS, READ_EVENTS and READ_TABLE, and SEND_ONCE (R165, R167, R169,
R170, R173)

Each command touches no record, so `State.manage_of_untouched` leaves its statement to what it does to the part after its frame was
scored. READ_TABLE comes last, with the bytes of its records. -/

section
namespace Sys2Proof.Machine

/-! ### Codes and their bytes (R72 to R74, R76) -/

theorem operatingByte_eq (o : Operating) : BitVec.ofNat 8 (operatingCode o) = match o with | .config => 0 | .run => 1 := by
  cases o <;> rfl

theorem portStateByte_eq (p : PortState) : BitVec.ofNat 8 (portStateCode p) =
    match p with | .off => 0 | .search => 1 | .cycling => 2 | .held => 3 | .detached => 4 := by
  cases p <;> rfl

theorem healthByte_eq (h : Health) : BitVec.ofNat 8 (healthCode h) = match h with | .active => 0 | .degraded => 1 := by
  cases h <;> rfl

theorem profileByte_eq (p : Option ProfileIx) :
    BitVec.ofNat 8 (profileByte p) = match p with | none => 0xFF | some p => BitVec.ofNat 8 p.val := by
  cases p <;> rfl

theorem feedStateByte_eq (f : FeedState) : BitVec.ofNat 8 (feedStateCode f) =
    match f with | .good => 0 | .dipping => 1 | .low => 2 | .recovering => 3 := by
  cases f <;> rfl

theorem slotStatusByte_eq (x : SlotStatus) : BitVec.ofNat 8 (slotStatusCode x) =
    match x with | .disabled => 0 | .awaiting => 1 | .live => 2 | .missing => 3 | .lost => 4 := by
  cases x <;> rfl

theorem festoonStatusByte_eq (x : FestoonStatus) : BitVec.ofNat 8 (festoonStatusCode x) =
    match x with | .disabled => 0 | .awaiting => 1 | .live => 2 | .lost => 3 := by
  cases x <;> rfl

theorem gateStateByte_eq (x : GateState) : BitVec.ofNat 8 (gateStateCode x) =
    match x with | .closed => 0 | .rising => 1 | .opened => 2 | .locked => 3 := by
  cases x <;> rfl

theorem channelStateByte_eq (x : ChannelState) : BitVec.ofNat 8 (channelStateCode x) =
    match x with | .normal => 0 | .opened => 1 := by
  cases x <;> rfl

theorem viewByte_eq (q : ViewQuality) : BitVec.ofNat 8 (viewCode q) = match q with
    | .stored .good => 0 | .stored .clamped => 1 | .stored (.suspect .short) => 2 | .stored (.suspect .opened) => 3
    | .stored (.suspect .feed) => 4 | .stored .stale => 5 | .stored .absent => 6 | .forced => 7 := by
  unfold viewCode
  split <;> rfl

/-- R72: the status of a reply that returns less than was asked for. -/
theorem statusCode_clamped (c : Prop) [Decidable c] : statusCode (if c then .done else .doneClamped) = if c then 0x00 else 0x01 :=
  apply_ite statusCode c _ _

theorem finOf_eq_none_iff (n k : Nat) : finOf n k = none ↔ n ≤ k := by
  rw [← Option.not_isSome_iff_eq_none, finOf_isSome, Nat.not_lt]

/-! ### STATUS (R74, R165) -/

/-- Settles O7: the sixteen bytes one by one. -/
theorem statusReportsThePart : Obligations.StatusReportsThePart := by
  intro tag req s awake receives fits u
  have taken : exec (.status tag req) s = .next (u.replying tag 0x01 0x00 u.statusBytes u.fp.link.rate) :=
    State.manage_of_untouched awake receives tag 0x01 fits (Nat.zero_le _) rfl fun _ => rfl
  rw [taken]
  simp only [State.statusBytes, oneByte_eq, operatingByte_eq, portStateByte_eq, healthByte_eq, profileByte_eq, feedStateByte_eq]
  rfl

/-! ### READ_SIGNALS (R4, R73, R169) -/

/-- R73: the five bytes of a view. -/
theorem viewBytes_eq (v : View) : viewBytes v = [BitVec.ofInt 8 v.value, BitVec.ofInt 8 (v.value / 256),
    BitVec.ofNat 8 (viewCode v.quality), BitVec.ofNat 8 v.age, BitVec.ofNat 8 (v.age / 256)] := by
  rw [viewBytes, leSigned_eq]; rfl

/-- The entries of a list that there are, from one place on, up to a count. -/
theorem filterMap_range_getElem? {α : Type} (l : List α) (first n : Nat) :
    (List.range n).filterMap (fun k => l[first + k]?) = (l.drop first).take n := by
  induction n with
  | zero => rfl
  | succ n ih =>
    rw [List.range_succ, List.filterMap_append, ih, List.take_add_one, List.getElem?_drop]
    cases h : l[first + n]? <;> simp [h]

/-- R169: the views asked for are those of the records that there are. -/
theorem State.viewsFrom_eq (s : State) (first n : Nat) :
    s.viewsFrom first n = ((s.image.cells.drop first).take n).map SigRec.view := by
  rw [← filterMap_range_getElem?, List.map_filterMap]; rfl

theorem State.length_viewsFrom (s : State) (first n : Nat) : (s.viewsFrom first n).length = min n (512 - first) := by
  rw [State.viewsFrom_eq, List.length_map, List.length_take, List.length_drop, s.image.size]

theorem State.getElem?_viewsFrom (s : State) {first n : Nat} {i : SigIx} (low : first ≤ i.val) (high : i.val < first + n) :
    (s.viewsFrom first n)[i.val - first]? = some (s.view i) := by
  rw [State.viewsFrom_eq, List.getElem?_map, List.getElem?_take_of_lt (by omega), List.getElem?_drop, Nat.add_sub_cancel' low]
  exact congrArg (Option.map SigRec.view) (s.image.get?_val i)

/-- R169: a request that names a signal is answered with the views from it on. -/
theorem State.readSignals_of_lt {u : State} {req : List Byte} (known : wordAt req 0 < 512) {views : List View}
    (found : u.viewsFrom (wordAt req 0) (min (byteAt req 2) 8) = views) : u.work.readSignals req =
      ⟨u.work, if views.length = byteAt req 2 then .done else .doneClamped,
        twoBytes (wordAt req 0) ++ oneByte views.length ++ views.flatMap viewBytes⟩ := by
  subst found
  exact if_neg (Nat.not_le.mpr known)

/-- Settles O16: how many views there are, which they are, and the five bytes of each. -/
theorem readSignalsReturnsViews : Obligations.ReadSignalsReturnsViews := by
  intro tag req s awake receives fits long u n bytes
  have taken : ∀ {r}, u.work.readSignals req = r → (∀ i, r.work.touched i = false) → exec (.readSignals tag req) s = _ :=
    State.manage_of_untouched awake receives tag 0x07 fits long
  have count : min (min (byteAt req 2) 8) (512 - wordAt req 0) = n := by omega
  have length := u.length_viewsFrom (wordAt req 0) (min (byteAt req 2) 8)
  rw [count] at length
  have same : bytes = viewBytes := funext fun v => by
    have written := viewBytes_eq v
    rw [viewByte_eq] at written
    exact written.symm
  refine ⟨fun known => ⟨u.viewsFrom (wordAt req 0) (min (byteAt req 2) 8), length, fun i low high => ?_, ?_⟩, fun past => ?_⟩
  · exact (u.getElem?_viewsFrom low (by omega)).trans rfl
  · rw [taken (State.readSignals_of_lt known rfl) fun _ => rfl, statusCode_clamped, length, same]
    rfl
  · have served : u.work.readSignals req = u.work.refuse .range := if_pos past
    exact taken served fun _ => rfl

/-! ### SEND_ONCE (R170) -/

section
variable {u : State} {line slot : Nat}

theorem State.sendOnce_of_config (config : u.operating = .config) : u.work.sendOnce line slot = u.work.refuse .state := by
  simp [Work.sendOnce, config]

theorem onceLine_of_le (past : 2 ≤ line) : onceLine line = none :=
  match line, past with
  | _ + 2, _ => rfl

/-- R170: a line code or a slot outside its range is refused. -/
theorem State.sendOnce_of_range (run : u.operating = .run) (range : 2 ≤ line ∨ 16 ≤ slot) :
    u.work.sendOnce line slot = u.work.refuse .range := by
  have outside : onceLine line = none ∨ finOf 16 slot = none := range.imp onceLine_of_le (finOf_eq_none_iff 16 slot).mpr
  simp only [Work.sendOnce, State.work_st, run]
  split
  · next known_line known_slot => simp [known_line, known_slot] at outside
  · rfl

section
variable {l : MasterLine} {k : SlotIx} (run : u.operating = .run) (known : onceLine line = some l) (place : k.val = slot)
include run known place

/-- R170: a slot whose set is not active is refused. -/
theorem State.sendOnce_of_inactive (inactive : u.activeEntry l k = none) : u.work.sendOnce line slot = u.work.refuse .state := by
  subst place
  simp only [Work.sendOnce, State.work_st, run, known, finOf_val, inactive]

/-- R170: a slot of an active set is armed if its record is that of an enabled ONCE slot. -/
theorem State.sendOnce_of_active {e : MasterIx} (active : u.activeEntry l k = some e) : u.work.sendOnce line slot =
    if (u.slotRec e).enabled && (u.slotRec e).direction == .outbound && (u.slotRec e).once then
      ⟨u.work.on fun s => s.onSlot e fun rt => { rt with armed := true }, .done, []⟩
    else u.work.refuse .range := by
  subst place
  simp only [Work.sendOnce, State.work_st, run, known, finOf_val, active]
  rfl

end

end

/-- Settles O19: each check in its order, and the arming. -/
theorem sendOnceArmsOnceSlots : Obligations.SendOnceArmsOnceSlots := by
  intro tag req s awake receives fits long u refused
  have taken : ∀ {r}, u.work.sendOnce (byteAt req 0) (byteAt req 1) = r → (∀ i, r.work.touched i = false) →
      exec (.sendOnce tag req) s = _ := State.manage_of_untouched awake receives tag 0x0C fits long
  refine ⟨fun config => taken (State.sendOnce_of_config config) fun _ => rfl,
    fun run range => taken (State.sendOnce_of_range run range) fun _ => rfl, fun l k run line slot => ?_⟩
  have known : onceLine (byteAt req 0) = some l := by rw [line]; cases l <;> rfl
  refine ⟨fun inactive => taken (State.sendOnce_of_inactive run known slot inactive) fun _ => rfl,
    fun e active => ⟨fun unfit => ?_, fun enabled outbound once => ?_⟩⟩
  · have refuses : ((u.slotRec e).enabled && (u.slotRec e).direction == .outbound && (u.slotRec e).once) = false := by
      obtain off | inbound | regular := unfit
      · simp [off]
      · simp [inbound]
      · simp [regular]
    exact taken ((State.sendOnce_of_active run known slot active).trans (if_neg (Bool.eq_false_iff.mp refuses))) fun _ => rfl
  · have arms : ((u.slotRec e).enabled && (u.slotRec e).direction == .outbound && (u.slotRec e).once) = true := by
      simp [enabled, outbound, once]
    exact taken ((State.sendOnce_of_active run known slot active).trans (if_pos arms)) fun _ => rfl

/-! ### READ_EVENTS (R75, R171 to R173) -/

/-- R75: the seven bytes of an event record. -/
theorem eventBytes_eq (r : EventRecord) : eventBytes r =
    [BitVec.ofNat 8 (eventCode r.event), BitVec.ofNat 8 (eventFields r.event).1, BitVec.ofNat 8 (eventFields r.event).2.1,
      BitVec.ofInt 8 (eventFields r.event).2.2, BitVec.ofInt 8 ((eventFields r.event).2.2 / 256),
      BitVec.ofNat 8 r.timestamp.toNat, BitVec.ofNat 8 (r.timestamp.toNat / 256)] := by
  simp only [eventBytes, leSigned_eq]
  rfl

/-- R173: the removal of the oldest records, however few there are. -/
theorem State.drain_eq (s : State) (n : Nat) : s.drain n =
    { s with events := s.events.drop (min n s.events.length)
             ovf := if s.events.length ≤ min n s.events.length then false else s.ovf } := by
  obtain all | few := Nat.lt_or_ge n s.events.length
  · have left : (s.events.drop n).isEmpty = false := by simpa using all
    simp [State.drain, left, Nat.min_eq_left all.le, all]
  · simp [State.drain, few]

/-- R173: the oldest records, at most six and at most as many as asked for, leave the queue. -/
theorem State.readEvents_eq (s : State) (maximum : Nat) : s.work.readEvents maximum =
    ⟨s.work.on (State.drain (min maximum 6)), if 6 < maximum then .doneClamped else .done,
      oneByte (s.events.take (min maximum 6)).length ++ ((s.events.take (min maximum 6)).map eventBytes).flatten⟩ := by
  rw [← List.flatMap_def]; rfl

/-- Settles O20: the records taken and those left, and the seven bytes of each kind of event. -/
theorem readEventsDrainsOldestFirst : Obligations.ReadEventsDrainsOldestFirst := by
  constructor
  · intro tag req s awake receives fits long u n
    have length : (u.events.take (min (byteAt req 0) 6)).length = n := List.length_take
    have taken : exec (.readEvents tag req) s = _ :=
      State.manage_of_untouched awake receives tag 0x0D fits long (u.readEvents_eq (byteAt req 0)) fun _ => rfl
    have status : statusCode (if 6 < byteAt req 0 then .doneClamped else .done) = if 6 < byteAt req 0 then 0x01 else 0x00 :=
      apply_ite statusCode _ _ _
    refine ⟨(u.events.take (min (byteAt req 0) 6)).map eventBytes, (List.length_map _).trans length, fun r member => ?_,
      fun j r found below => ?_, ?_⟩
    · obtain ⟨r, -, rfl⟩ := List.mem_map.mp member
      rw [eventBytes_eq]; rfl
    · rw [List.getElem?_map, List.getElem?_take_of_lt (by omega), found]; rfl
    · rw [taken, status, length, Work.on_st, State.work_st, State.drain_eq]
      rfl
  · intro e timestamp line feed bytes
    cases e with
    | gateClosed g locked => cases locked <;> exact eventBytes_eq _
    | cycleOverrun l => cases l <;> exact eventBytes_eq _
    | _ => exact eventBytes_eq _

end Sys2Proof.Machine
end

section
namespace Sys2Proof.Machine

/-! ### Whole records (R167) -/

theorem Tab.get?_eq_none_iff {α : Type} {n : Nat} (t : Tab α n) (k : Nat) : t.get? k = none ↔ n ≤ k := by
  rw [Tab.get?, List.getElem?_eq_none_iff, t.size]

/-- R167: a table has records up to its last entry. -/
theorem State.recordBytes_eq_none_iff (s : State) (table : TableId) (i : Nat) :
    s.recordBytes table i = none ↔ tableSize table ≤ i := by
  cases table with
  | slot =>
    simp only [State.recordBytes]
    split <;> simp only [Option.map_eq_none_iff, finOf_eq_none_iff, tableSize] <;> omega
  | gate =>
    simp only [State.recordBytes]
    split <;> simp only [Option.map_eq_none_iff, finOf_eq_none_iff, tableSize, reduceCtorEq, false_iff] <;> omega
  | trolley =>
    simp only [State.recordBytes, tableSize]
    split
    · simp only [Option.map_eq_none_iff, finOf_eq_none_iff]; omega
    · split
      · simp only [Option.map_eq_none_iff, finOf_eq_none_iff]; omega
      · split
        case h_5 _ not32 not33 not34 not35 =>
          have apart : i ≠ 32 ∧ i ≠ 33 ∧ i ≠ 34 ∧ i ≠ 35 := ⟨not32, not33, not34, not35⟩
          exact iff_of_true rfl (by omega)
        all_goals exact iff_of_false nofun (by decide)
  | _ => simp only [State.recordBytes, Option.map_eq_none_iff, Tab.get?_eq_none_iff, finOf_eq_none_iff, tableSize]

/-- R167: these are the whole records of a table from an entry on, until the count, the table's last entry or the room ends them. -/
structure State.Collected (s : State) (table : TableId) (limit first capacity : Nat) (records : List (List Byte)) : Prop where
  count : records.length ≤ limit
  room : records.flatten.length ≤ capacity
  whole : ∀ j, j < records.length → s.recordBytes table (first + j) = records[j]?
  ended : records.length = limit ∨ first + records.length = tableSize table ∨
    ∃ r, s.recordBytes table (first + records.length) = some r ∧ capacity < records.flatten.length + r.length

/-- R167: a record that fits comes before those that are collected behind it. -/
theorem State.Collected.cons {s : State} {table : TableId} {count first room : Nat} {r : List Byte} {records : List (List Byte)}
    (found : s.recordBytes table first = some r) (fits : r.length ≤ room)
    (rest : s.Collected table count (first + 1) (room - r.length) records) :
    s.Collected table (count + 1) first room (r :: records) where
  count := Nat.succ_le_succ rest.count
  room := by
    have left := rest.room
    rw [List.flatten_cons, List.length_append]
    omega
  whole j hj := match j with
    | 0 => found
    | j + 1 => by
      rw [List.getElem?_cons_succ, ← rest.whole j (Nat.lt_of_succ_lt_succ hj)]
      congr 1
      omega
  ended := by
    have next : first + 1 + records.length = first + (r :: records).length := by rw [List.length_cons]; omega
    obtain all | last | ⟨r', found', past⟩ := rest.ended
    · exact .inl (congrArg (· + 1) all)
    · exact .inr (.inl (next ▸ last))
    · exact .inr (.inr ⟨r', next ▸ found', by rw [List.flatten_cons, List.length_append]; omega⟩)

/-- R167: what READ_TABLE collects. -/
theorem State.collected (s : State) (table : TableId) (count first room : Nat) (within : first ≤ tableSize table) :
    s.Collected table count first room (s.collect table count first room) := by
  induction count generalizing first room with
  | zero => exact ⟨Nat.le_refl 0, Nat.zero_le _, nofun, .inl rfl⟩
  | succ count ih =>
    cases found : s.recordBytes table first with
    | none =>
      have last : first = tableSize table := Nat.le_antisymm within ((s.recordBytes_eq_none_iff table first).mp found)
      simp only [State.collect, found]
      exact ⟨Nat.zero_le _, Nat.zero_le _, nofun, .inr (.inl last)⟩
    | some r =>
      simp only [State.collect, found]
      split
      · next fits =>
        have below : first < tableSize table := Nat.lt_of_not_le fun past => by
          rw [(s.recordBytes_eq_none_iff table first).mpr past] at found; exact nomatch found
        exact .cons found fits (ih (first + 1) (room - r.length) below)
      · next long => exact ⟨Nat.zero_le _, Nat.zero_le _, nofun, .inr (.inr ⟨r, found, by simpa using long⟩)⟩

section
variable {u : State} {req : List Byte}

/-- R167: an unknown table, and an entry that its table does not have, are refused. -/
theorem State.readTable_of_range (range : tableOfCode (byteAt req 0) = none ∨
    ∃ table, tableOfCode (byteAt req 0) = some table ∧ tableSize table ≤ wordAt req 1) :
    u.work.readTable req = u.work.refuse .range := by
  obtain unknown | ⟨table, known, past⟩ := range
  · simp only [Work.readTable, unknown]
  · simp only [Work.readTable, known, if_pos past]

theorem State.readTable_of_lt {table : TableId} (known : tableOfCode (byteAt req 0) = some table)
    (within : wordAt req 1 < tableSize table) {records : List (List Byte)}
    (collected : u.collect table (byteAt req 3) (wordAt req 1) 42 = records) : u.work.readTable req =
      ⟨u.work.on (State.drawWatch table), if records.length = byteAt req 3 then .done else .doneClamped,
        oneByte (tableCode table) ++ twoBytes (wordAt req 1) ++ oneByte records.length ++ records.flatten⟩ := by
  subst collected
  simp only [Work.readTable, known, if_neg (Nat.not_le.mpr within)]
  rfl

/-- Log 14: a reply from the WATCH table alone uses up a draw. -/
theorem State.drawWatch_eq (s : State) (table : TableId) :
    s.drawWatch table = { s with freeDraws := if table = .watch then s.freeDraws + 1 else s.freeDraws } := by
  cases table <;> rfl

end

/-! ### The bytes of records (R41, R76, R84, R105, R120, R130, R143, R174) -/

/-- R76: four bytes are two numbers of two bytes. -/
theorem leBytes_four (n : Nat) : leBytes 4 n = twoBytes n ++ twoBytes (n / 65536) := by
  simp [leBytes, Nat.div_div_eq_div_mul]

section
variable (s : State)

theorem State.recordBytes_profile (p : ProfileIx) : s.recordBytes .profile p.val = some (profileBytes (s.tables.profiles.get p) ++
    flagBytes (decide (s.attached = some p)) ++ leBytes 4 (s.serials.get p).toNat) := by
  simp only [State.recordBytes, finOf_val, Option.map_some, beq_eq_decide]

theorem State.recordBytes_masterSlot (e : MasterIx) :
    s.recordBytes .slot e.val = some (masterBytes (s.tables.masterSlots.get e) ++ masterRtBytes (s.masterRt.get e)) := by
  simp only [State.recordBytes, e.isLt, if_pos, finOf_val]; rfl

theorem State.recordBytes_festoonSlot (k : SlotIx) :
    s.recordBytes .slot (80 + k.val) = some (festoonBytes (s.tables.festoonSlots.get k) ++ festoonRtBytes (s.fp.slots.get k)) := by
  simp [State.recordBytes]

theorem State.recordBytes_gate (g : GateIx) :
    s.recordBytes .gate g.val = some (gateBytes (s.tables.gates.get g) ++ gateRtBytes (s.gateRt.get g)) := by
  simp [State.recordBytes, g.isLt.ne]

theorem State.recordBytes_channel (c : Fin 16) :
    s.recordBytes .trolley c.val = some (channelBytes (s.tables.channels.get c) ++ channelRtBytes (s.tio.channels.get c)) := by
  simp [State.recordBytes, c.isLt]

theorem State.recordBytes_input (i : Fin 16) :
    s.recordBytes .trolley (16 + i.val) = some (oneByte (s.tables.inputQ.get i) ++ inputRtBytes (s.tio.inputs.get i)) := by
  have below : 16 + i.val < 32 := by omega
  simp [State.recordBytes, below]

theorem State.recordBytes_feed (d : Fin 2) :
    s.recordBytes .feed d.val = some (feedBytes (s.tables.feeds.get d) ++ feedRtBytes (s.feedRt.get d)) := by
  simp [State.recordBytes]

theorem State.recordBytes_watch (w : Fin 8) : s.recordBytes .watch w.val =
    some (watchBytes (s.tables.watch.get w) ++ watchLastBytes s.freeDraws w.val (s.watchLast.get w)) := by
  simp [State.recordBytes]

end

/-- Settles O10: the records are those collected, and their bytes are read off table by table. -/
theorem readTableReturnsWholeRecords : Obligations.ReadTableReturnsWholeRecords := by
  constructor
  · intro tag req s awake receives fits long u
    have taken : ∀ {r}, u.work.readTable req = r → (∀ i, r.work.touched i = false) → exec (.readTable tag req) s = _ :=
      State.manage_of_untouched awake receives tag 0x05 fits long
    refine ⟨fun table known within => ?_, fun range => taken (State.readTable_of_range range) fun _ => rfl⟩
    obtain ⟨count, room, whole, ended⟩ := u.collected table (byteAt req 3) (wordAt req 1) 42 within.le
    refine ⟨u.collect table (byteAt req 3) (wordAt req 1) 42, count, room, whole, ended, ?_⟩
    rw [taken (State.readTable_of_lt known within rfl) fun _ => rfl, statusCode_clamped, Work.on_st, State.drawWatch_eq]
    rfl
  · intro s byte word flag
    refine ⟨rfl, s.recordBytes_eq_none_iff, ?_, ?_, fun p => ?_, fun e => ?_, fun k => ?_, ?_, ?_, fun g => ?_, ?_, ?_, fun c => ?_,
      s.recordBytes_input, ?_, fun d => ?_, fun w => ?_⟩
    · exact fun k => congrArg (Option.map areaBytes) (Tab.get?_val _ k)
    · exact fun k => congrArg (Option.map lineBytes) (Tab.get?_val _ k)
    · rw [s.recordBytes_profile, leBytes_four]; rfl
    · rw [s.recordBytes_masterSlot, masterRtBytes, oneByte_eq, slotStatusByte_eq]
      simp only [List.append_assoc]; rfl
    · rw [s.recordBytes_festoonSlot, festoonRtBytes, oneByte_eq, festoonStatusByte_eq, List.append_assoc]; rfl
    · exact fun k => congrArg (Option.map placementBytes) (Tab.get?_val _ k)
    · exact fun k => congrArg (Option.map conversionBytes) (Tab.get?_val _ k)
    · rw [s.recordBytes_gate, gateRtBytes, oneByte_eq, gateStateByte_eq]; rfl
    · rfl
    · exact fun k => congrArg (Option.map termBytes) (Tab.get?_val _ k)
    · rw [s.recordBytes_channel, channelRtBytes, oneByte_eq, channelStateByte_eq]; rfl
    · exact ⟨rfl, rfl, congrArg (fun relays => some (lSlotBytes s.tables.l2 ++ [relays])) (BitVec.ofNat_toNat 8 s.tio.relays), rfl⟩
    · rw [s.recordBytes_feed, feedRtBytes, oneByte_eq, feedStateByte_eq]; rfl
    · rw [s.recordBytes_watch]
      refine ⟨fun unset => ?_, fun value quality last => ?_⟩
      · rw [unset]; exact ⟨_, _, _, rfl⟩
      · rw [last, watchLastBytes, leSigned_eq, oneByte_eq (viewCode quality), viewByte_eq]; rfl

end Sys2Proof.Machine
end

/-! # Proofs about a step and the queue of commands that wait (log 21)

Every command answers by `State.occurs`, or with a state of its own, so it always has a next state. That no command touches the queue is
said once for each operation, from the shared ones up to the engines and the modes; `exec_answers` then takes the commands by their
operation. -/

section
namespace Sys2Proof.Machine

/-! ### Events, lines and the image -/

theorem State.Reported.pending {s t : State} (h : s.Reported t) : t.pending = s.pending := by rw [h.frame]

@[simp] theorem State.raiseAll_pending (s : State) (es : List Event) : (s.raiseAll es).pending = s.pending :=
  (s.reported_raiseAll es).pending

@[simp] theorem Work.close_pending (w : Work) : w.close.pending = w.st.pending := w.reported_close.pending

@[simp] theorem Work.stale_pending (w : Work) (sigs : List SigIx) : (w.stale sigs).st.pending = w.st.pending := rfl
@[simp] theorem Work.suspectFeed_pending (w : Work) (o : Owner) : (w.suspectFeed o).st.pending = w.st.pending := rfl
@[simp] theorem Work.clearArea_pending (w : Work) (o : Owner) : (w.clearArea o).st.pending = w.st.pending := rfl

@[simp] theorem Work.applyRun_pending (w : Work) (run : List Placement) (bytes : List Byte) :
    (w.applyRun run bytes).st.pending = w.st.pending := by rw [w.applyRun_frame]

section
variable (s : State)

@[simp] theorem State.onPort_pending (l : MasterLine) (f : MasterPort → MasterPort) : (s.onPort l f).pending = s.pending :=
  s.setPort_pending l _
@[simp] theorem State.setPhase_pending (l : Line) (p : LinePhase) : (s.setPhase l p).pending = s.pending := s.setLink_pending l _
@[simp] theorem State.send_pending (l : Line) (f : Frame) : (s.send l f).pending = s.pending := s.setPhase_pending l _
@[simp] theorem State.judged_pending (l : Line) : (s.judged l).pending = s.pending := s.setPhase_pending l _
@[simp] theorem State.stopSearch_pending : s.stopSearch.pending = s.pending := rfl
@[simp] theorem State.takeOrder_pending (l : MasterLine) : (s.takeOrder l).pending = s.pending := rfl
@[simp] theorem State.enterSearch_pending : s.enterSearch.pending = s.pending := rfl

@[simp] theorem State.scoreGood_pending (l : Line) : (s.scoreGood l).pending = s.pending := by
  unfold State.scoreGood
  simp only
  split
  · split <;> simp
  · simp

@[simp] theorem State.scoreError_pending (l : Line) : (s.scoreError l).pending = s.pending := by
  unfold State.scoreError
  simp only
  split
  · split <;> simp
  · simp

/-! ### The cycle and the turns of a master port -/

@[simp] theorem State.startCycle_pending (l : MasterLine) : (s.startCycle l).pending = s.pending := by
  by_cases idle : (s.port l).turn = .none ∧ (s.port l).queue = []
  · rw [s.startCycle_of_idle l idle.1 idle.2, State.setPort_pending]
  · rw [s.startCycle_behind l idle, State.setPort_pending]

@[simp] theorem State.enterCycling_pending (l : MasterLine) : (s.enterCycling l).pending = s.pending := by simp [State.enterCycling]

@[simp] theorem State.resumeCab_pending : s.resumeCab.pending = s.pending := by simp [State.resumeCab]

@[simp] theorem State.cycleExpiry_pending (l : MasterLine) : (s.cycleExpiry l).pending = s.pending := by
  unfold State.cycleExpiry State.cycleOverrun
  split
  · simp
  · simp only; split <;> simp

@[simp] theorem State.atBoundary_pending (l : MasterLine) : (s.atBoundary l).pending = s.pending := by
  obtain ⟨p, h, -⟩ := s.atBoundary_eq l
  rw [h, State.setPort_pending]

@[simp] theorem State.beginOut_pending (l : MasterLine) : (s.beginOut l).pending = s.pending := by
  unfold State.beginOut
  split <;> simp

@[simp] theorem State.endOut_pending (l : MasterLine) : (s.endOut l).pending = s.pending := by
  unfold State.endOut
  split
  · rfl
  · simp only; split <;> simp

@[simp] theorem State.beginIn_pending (l : MasterLine) : (s.beginIn l).pending = s.pending := by
  unfold State.beginIn
  split <;> simp

@[simp] theorem State.openWindow_pending (l : MasterLine) : (s.openWindow l).pending = s.pending := by
  unfold State.openWindow
  split <;> simp

@[simp] theorem State.requestIf_pending (target : Option ChainTarget) : (State.requestIf target s).pending = s.pending := by
  have turn : ∀ l k, (s.requestTurn l k).pending = s.pending := fun l k => by
    obtain h | ⟨-, -, h⟩ := s.requestTurn_cases l k <;> simp [h]
  match target with
  | none | some .l => rfl
  | some (.sp k) => exact turn .sp k
  | some (.cp k) => exact turn .cp k

@[simp] theorem State.dropAttachment_pending : s.dropAttachment.pending = s.pending := by
  unfold State.dropAttachment
  split <;> rfl

@[simp] theorem State.takeReply_pending (payload : List Byte) : (s.takeReply payload).pending = s.pending := by
  unfold State.takeReply
  split
  · simp [State.attach]
  · unfold State.unknownReply
    split <;> simp

@[simp] theorem State.sendHail_pending : s.sendHail.pending = s.pending := rfl

end

/-! ### Misses, losses, detachments and holds -/

section
variable (w : Work) (l : MasterLine)

@[simp] theorem Work.endIfAllLost_pending : (w.endIfAllLost l).st.pending = w.st.pending := by
  unfold Work.endIfAllLost
  split
  · split
    · simp [Work.endAttachment]
    · rfl
  all_goals rfl

@[simp] theorem Work.miss_pending (k : SlotIx) : (w.miss l k).st.pending = w.st.pending := by
  unfold Work.miss
  split
  · rfl
  · simp only; split <;> simp

@[simp] theorem Work.windowOver_pending (ended : Bool) : (w.windowOver l ended).st.pending = w.st.pending := by
  unfold Work.windowOver
  split
  · split
    · exact w.miss_pending l _
    all_goals split <;> rfl
  · rfl

@[simp] theorem Work.windowExpiry_pending : (w.windowExpiry l).st.pending = w.st.pending := by
  unfold Work.windowExpiry
  split <;> simp

@[simp] theorem Work.detachMaster_pending : (w.detachMaster l).st.pending = w.st.pending := by
  have slots : ∀ (kes : List (SlotIx × MasterIx)) (w : Work), (kes.foldl (Work.detachSlot l) w).st.pending = w.st.pending :=
    fun kes w => by rw [Work.detachSlots_frame]
  have ended : ∀ w : Work, w.detachAttachment.st.pending = w.st.pending := fun w => by
    unfold Work.detachAttachment
    split <;> simp
  cases l <;> simp [Work.detachMaster, slots, ended]

@[simp] theorem Work.masterError_pending (ended : Bool) : (w.masterError l ended).st.pending = w.st.pending := by
  unfold Work.masterError
  simp only
  split <;> simp

@[simp] theorem Work.masterStray_pending (ended : Bool) : (w.masterStray l ended).st.pending = w.st.pending := by
  simp [Work.masterStray]

@[simp] theorem Work.hold_pending : (w.hold l).st.pending = w.st.pending := by
  have ended : ∀ w : Work, w.holdAttachment.st.pending = w.st.pending := fun w => by rw [w.holdAttachment_st.2.1]
  cases l <;> simp [Work.hold, ended]

@[simp] theorem Work.leaveDetached_pending : (w.leaveDetached l).st.pending = w.st.pending := by
  unfold Work.leaveDetached
  split
  · exact w.hold_pending l
  · cases l <;> simp

@[simp] theorem Work.takeHold_pending : (w.takeHold l).st.pending = w.st.pending := by
  unfold Work.takeHold
  simp only
  split
  · simp
  · split <;> simp
  all_goals simp

@[simp] theorem Work.takeRelease_pending : (w.takeRelease l).st.pending = w.st.pending := by
  unfold Work.takeRelease
  simp only
  split
  · split <;> simp
  all_goals simp

@[simp] theorem Work.response_pending (f : Frame) : (w.response l f).st.pending = w.st.pending := by
  have accepted : ∀ (w : Work) k e payload, (w.accept l k e payload).st.pending = w.st.pending := fun w k e payload => by
    unfold Work.accept
    simp only
    split <;> simp
  unfold Work.response
  split <;> simp [accepted]

end

/-! ### Gates, terminals and feed monitors -/

section
variable (s : State)

theorem State.sweep_pending : s.work.sweep.st.pending = s.pending := by
  have outputs : ∀ w : Work, w.writeOutputs.st.pending = w.st.pending := fun w => by
    unfold Work.writeOutputs
    exact foldl_keeps (fun w : Work => w.st.pending) (fun w g => by simp only; split <;> rfl) _ w
  have chains : ∀ (before : Tab GateRt 32) (s : State), (s.sweepChains before).pending = s.pending := fun before =>
    foldl_keeps State.pending (fun s g => by split <;> simp) _
  exact (chains _ _).trans ((State.raiseAll_pending _ _).trans (outputs _))

theorem State.completeScan_pending (samples : BitVec 16) (readings : Tab (BitVec 12) 16) :
    (s.work.completeScan samples readings).st.pending = s.pending := by
  rw [s.completeScan_frame, s.scanTerminals_frame]
  rfl

@[simp] theorem State.takeReading_pending (d : Feed) : (s.takeReading d).pending = s.pending := by
  have stepped : ∀ (s : State) h, (s.stepFeed d h).pending = s.pending := fun s h => by
    unfold State.stepFeed
    simp only
    split <;> simp
  unfold State.takeReading
  split
  · rfl
  · simp only; split <;> simp [stepped]

/-! ### CONFIG, RUN and the warm restart -/

@[simp] theorem State.toConfig_pending : s.toConfig.pending = s.pending := rfl

@[simp] theorem State.toRun_pending : s.toRun.pending = s.pending := by
  have cab : ∀ s : State, s.startCab.pending = s.pending := fun s => by
    unfold State.startCab
    split <;> simp
  rw [State.toRun_eq, State.startSpreader]
  split <;> exact cab s.runBase

@[simp] theorem State.warmRestart_pending : s.warmRestart.pending = s.pending := by
  unfold State.warmRestart
  simp only
  split
  · exact State.toRun_pending _
  · rfl

/-! ### The festoon line -/

@[simp] theorem State.beginReception_pending : s.beginReception.pending = s.pending := by
  unfold State.beginReception
  split
  · simp only; split <;> simp
  all_goals rfl

@[simp] theorem State.festoonGood_pending : s.festoonGood.pending = s.pending := by simp [State.festoonGood]

@[simp] theorem State.festoonError_pending : s.festoonError.pending = s.pending := by
  unfold State.festoonError
  simp only
  split <;> simp [State.detachFestoon]

@[simp] theorem State.takeData_pending (f : Frame) : (s.takeData f).pending = s.pending := by
  have accepted : ∀ (w : Work) k payload, (w.acceptFestoon k payload).st.pending = w.st.pending := fun w k payload => by
    unfold Work.acceptFestoon
    simp only
    split <;> simp
  unfold State.takeData
  split <;> simp [accepted]

@[simp] theorem State.takePoll_pending (f : Frame) : (s.takePoll f).pending = s.pending := by
  unfold State.takePoll
  split <;> simp

@[simp] theorem State.beginAnswer_pending : s.beginAnswer.pending = s.pending := by
  unfold State.beginAnswer
  split <;> simp

@[simp] theorem State.beginReply_pending : s.beginReply.pending = s.pending := by
  unfold State.beginReply
  split <;> simp

@[simp] theorem Work.staleExpiry_pending (w : Work) (k : SlotIx) : (w.staleExpiry k).st.pending = w.st.pending := by
  simp [Work.staleExpiry]

end

end Sys2Proof.Machine
end

section
namespace Sys2Proof.Machine

/-! ### Management commands -/

/-- A management command leaves the queue of commands that wait. -/
def KeepsQueue (command : Work → Served) : Prop := ∀ w : Work, (command w).work.st.pending = w.st.pending

theorem Work.enterConfig_keepsQueue : KeepsQueue Work.enterConfig := fun w => by
  unfold Work.enterConfig
  split <;> rfl

theorem Work.enterRun_keepsQueue : KeepsQueue Work.enterRun := fun w => by
  unfold Work.enterRun
  split
  · rfl
  · split
    · rfl
    · exact State.toRun_pending _

theorem Work.readTable_keepsQueue (req : List Byte) : KeepsQueue (Work.readTable req) := fun w => by rw [w.readTable_frame]

theorem Work.writeTable_keepsQueue (req : List Byte) : KeepsQueue (Work.writeTable req) := fun w => by
  unfold Work.writeTable
  split
  · rfl
  split
  · rfl
  simp only
  split
  · rfl
  · rw [Work.on_st, State.acceptWrite_frame]

theorem Work.readSignals_keepsQueue (req : List Byte) : KeepsQueue (Work.readSignals req) := fun w => by rw [w.readSignals_work]

theorem Work.writeSignal_keepsQueue (index : Nat) (value : Int) : KeepsQueue (Work.writeSignal index value) := fun w => by
  rw [w.writeSignal_frame]

theorem Work.force_keepsQueue (index : Nat) (value : Int) : KeepsQueue (Work.force index value) := fun w => by rw [w.force_frame]

theorem Work.release_keepsQueue (index : Nat) : KeepsQueue (Work.release index) := fun w => by rw [w.release_frame]

theorem Work.sendOnce_keepsQueue (line slot : Nat) : KeepsQueue (Work.sendOnce line slot) := fun w => by
  unfold Work.sendOnce
  split
  · rfl
  split
  · split
    · rfl
    · simp only; split <;> rfl
  · rfl

theorem withRequest_keepsQueue {command : Work → Served} (keeps : KeepsQueue command) (need : Nat) (req : List Byte) :
    KeepsQueue (withRequest need req command) := fun w => by
  unfold withRequest
  split
  · rfl
  · exact keeps w

theorem State.serve_pending {command : Work → Served} (keeps : KeepsQueue command) (s : State) (tag : BitVec 6) (code : Nat) :
    (s.serve tag code command).pending = s.pending := by
  simp [State.serve, State.replyDue, keeps _]

/-! ### Every command -/

/-- The outcome is a next state with the queue of `s`. -/
def Answers (s : State) (o : Host.Outcome State Fault Refusal) : Prop := ∃ t, o = .next t ∧ t.pending = s.pending

/-- Whether its event can occur or not (log 1), a command whose change leaves the queue answers with it. -/
theorem State.answers_of_occurs {s next : State} (same : next.pending = s.pending) (possible : Bool) :
    Answers s (s.occurs possible next) := by
  refine ⟨_, rfl, ?_⟩
  split
  · exact same
  · rfl

theorem State.answers_of_closed {s : State} {w : Work} (same : w.st.pending = s.pending) (possible : Bool) :
    Answers s (s.occurs possible w.close) := State.answers_of_occurs (w.close_pending.trans same) possible

theorem State.answers_of_manage {command : Work → Served} (keeps : KeepsQueue command) (s : State) (tag : BitVec 6) (code need : Nat)
    (req : List Byte) : Answers s (s.manage tag code need req command) :=
  State.answers_of_occurs (s.serve_pending (withRequest_keepsQueue keeps need req) tag code) _

theorem exec_answers (c : Instr) (s : State) : Answers s (exec c s) := by
  cases c with
  | powerOn strap | resetInputAssert | resetInputRelease strap => exact ⟨_, rfl, rfl⟩
  | status tag req | restart tag req | readEvents tag req | releaseAll tag req =>
    exact s.answers_of_manage (fun _ => rfl) tag _ _ req
  | enterConfig tag req => exact s.answers_of_manage Work.enterConfig_keepsQueue tag _ _ req
  | enterRun tag req => exact s.answers_of_manage Work.enterRun_keepsQueue tag _ _ req
  | readTable tag req => exact s.answers_of_manage (Work.readTable_keepsQueue req) tag _ _ req
  | writeTable tag req => exact s.answers_of_manage (Work.writeTable_keepsQueue req) tag _ _ req
  | readSignals tag req => exact s.answers_of_manage (Work.readSignals_keepsQueue req) tag _ _ req
  | writeSignal tag req => exact s.answers_of_manage (Work.writeSignal_keepsQueue _ _) tag _ _ req
  | force tag req => exact s.answers_of_manage (Work.force_keepsQueue _ _) tag _ _ req
  | release tag req => exact s.answers_of_manage (Work.release_keepsQueue _) tag _ _ req
  | sendOnce tag req => exact s.answers_of_manage (Work.sendOnce_keepsQueue _ _) tag _ _ req
  | unknownCommand tag payload => exact State.answers_of_occurs (s.serve_pending (fun _ => rfl) tag _) _
  | ageTimerExpiry | searchWindowExpiry | l2ChainBuild | scanTimerExpiry | hailEnd =>
    refine State.answers_of_occurs ?_ _
    rfl
  | warmRestart =>
    refine State.answers_of_occurs ?_ _
    rw [State.setPhase_pending, State.warmRestart_pending]
  | frameError line chars ended =>
    cases line with
    | sp | cp => exact State.answers_of_closed (s.work.masterError_pending _ ended) _
    | fp => exact State.answers_of_occurs s.festoonError_pending _
  | strayFrame line f ended =>
    cases line with
    | sp | cp => exact State.answers_of_closed (s.work.masterStray_pending _ ended) _
    | fp => exact State.answers_of_occurs s.festoonGood_pending _
  | lineRest line => exact State.answers_of_occurs (s.setPhase_pending line .rested) _
  | detachTimerExpiry line =>
    cases line with
    | sp | cp => exact State.answers_of_closed (s.work.leaveDetached_pending _) _
    | fp =>
      refine State.answers_of_occurs ?_ _
      rfl
  | masterResponseAccepted line f => exact State.answers_of_closed (s.work.response_pending line f) _
  | cycleTimerExpiry line => exact State.answers_of_occurs (s.cycleExpiry_pending line) _
  | outTurnStart line => exact State.answers_of_occurs (s.beginOut_pending line) _
  | outFrameEnd line => exact State.answers_of_occurs (s.endOut_pending line) _
  | turnBoundary line => exact State.answers_of_occurs (s.atBoundary_pending line) _
  | inTurn line => exact State.answers_of_occurs (s.beginIn_pending line) _
  | pollEnd line => exact State.answers_of_occurs (s.openWindow_pending line) _
  | responseWindowExpiry line => exact State.answers_of_closed (s.work.windowExpiry_pending line) _
  | firstHail | searchTimerExpiry => exact State.answers_of_occurs s.sendHail_pending _
  | hailReplyTaken f =>
    refine State.answers_of_occurs ?_ _
    rw [State.takeReply_pending, State.scoreGood_pending, State.judged_pending]
  | festoonDataAccepted f => exact State.answers_of_occurs (s.takeData_pending f) _
  | festoonPoll f => exact State.answers_of_occurs (s.takePoll_pending f) _
  | festoonReceptionStart => exact State.answers_of_occurs s.beginReception_pending _
  | festoonDataAnswer => exact State.answers_of_occurs s.beginAnswer_pending _
  | mgmtReplyStart => exact State.answers_of_occurs s.beginReply_pending _
  | staleTimerExpiry slot => exact State.answers_of_closed (s.work.staleExpiry_pending slot) _
  | sweep => exact State.answers_of_closed s.sweep_pending _
  | scanCompletion samples readings => exact State.answers_of_closed (s.completeScan_pending samples readings) _
  | feedReading feed => exact State.answers_of_occurs (s.takeReading_pending feed) _
  | portHold line => exact State.answers_of_closed (s.work.takeHold_pending line) _
  | portRelease line => exact State.answers_of_closed (s.work.takeRelease_pending line) _

/-- Settles O2: every command answers, with the queue it found. -/
theorem everyCommandAnswersAndKeepsQueue : Obligations.EveryCommandAnswersAndKeepsQueue := exec_answers

/-! ### A step -/

theorem step_of_cons (c : Instr) (q : List Instr) (s : State) : step (s.withPending (c :: q)) = exec c (s.withPending q) := rfl

theorem step_of_idle {s : State} (idle : s.pending = []) : step s = .next s := by simp only [step, idle]

/-- Settles O1: the two arms of a step. -/
theorem stepRunsFrontCommand : Obligations.StepRunsFrontCommand := ⟨step_of_cons, fun _ idle => step_of_idle idle⟩

end Sys2Proof.Machine
end

/-! # Proofs about the ages, signal addresses, and the commands that write and force records (R2, R4, R8, R9, R15 to R17, R152) -/

section

namespace Sys2Proof.Machine

/-! ### The 1 ms timer (R2, R152) -/

theorem SigRec.aged_eq (r : SigRec) : r.aged = { r with age := if r.age < 65535 then r.age + 1 else 65535 } := by
  simp only [SigRec.aged, Config.maxAge, SigRec.mk.injEq, true_and, and_true]
  split <;> omega

theorem State.tick_image (s : State) (i : SigIx) : s.tick.image.get i = (s.image.get i).aged := Tab.get_map _ _ _

/-- Settles O5: what the timer leaves is `State.tick`. -/
theorem agesAndTimestampAdvance : Obligations.AgesAndTimestampAdvance := fun s awake =>
  ⟨s.tick, State.occurs_of _ awake rfl, fun i => (s.tick_image i).trans (SigRec.aged_eq _), BitVec.toNat_add _ _, rfl⟩

/-! ### Signal addresses (R8, R9) -/

theorem State.addressIndex_of_fixed {s : State} {a : SigAddr} (fixed : a.selector = none) : s.addressIndex a = some a.base.val := by
  simp only [State.addressIndex, fixed]

theorem State.addressIndex_of_selector {s : State} {a : SigAddr} {sel : SigIx} (selected : a.selector = some sel) (n : Nat) :
    s.addressIndex a = some n ↔ (s.view sel).quality.usable = true ∧ 0 ≤ (s.view sel).value ∧ (s.view sel).value ≤ 15 ∧
      (n : Int) = a.base.val + (s.view sel).value * a.scale.factor := by
  simp only [State.addressIndex, selected]
  split
  next h =>
    simp only [Bool.and_eq_true, decide_eq_true_eq] at h
    obtain ⟨⟨usable, low⟩, high⟩ := h
    have cast : ((s.view sel).value.toNat : Int) = (s.view sel).value := Int.toNat_of_nonneg low
    rw [Option.some.injEq, ← @Nat.cast_inj Int, Nat.cast_add, Nat.cast_mul, cast]
    exact ⟨fun computed => ⟨usable, low, high, computed.symm⟩, fun ⟨_, _, _, computed⟩ => computed.symm⟩
  next h =>
    refine ⟨(nomatch ·), fun ⟨usable, low, high, _⟩ => absurd ?_ h⟩
    simp [usable, low, high]

/-- R9: an address names the assigned record at the index it computes. -/
theorem State.resolve_eq_some {s : State} {a : SigAddr} {i : SigIx} :
    s.resolve a = some i ↔ s.addressIndex a = some i.val ∧ s.tables.assigned i = true := by
  unfold State.resolve
  split
  next none => simp [none]
  next n computed =>
    rw [computed, Option.some.injEq]
    by_cases inside : n < 512
    · rw [dif_pos inside]
      by_cases assigned : s.tables.assigned ⟨n, inside⟩ = true
      · rw [if_pos assigned, Option.some.injEq]
        exact ⟨fun e => e ▸ ⟨rfl, assigned⟩, fun ⟨e, _⟩ => Fin.ext e⟩
      · rw [if_neg assigned]
        exact ⟨(nomatch ·), fun ⟨e, named⟩ => absurd (Fin.ext (a := ⟨n, inside⟩) e ▸ named) assigned⟩
    · rw [dif_neg inside]
      exact ⟨(nomatch ·), fun ⟨e, _⟩ => absurd (e ▸ i.isLt) inside⟩

theorem State.read_of_resolved {s : State} {a : SigAddr} {i : SigIx} (resolved : s.resolve a = some i) : s.read a = s.view i := by
  simp only [State.read, resolved]

theorem State.read_of_unresolved {s : State} {a : SigAddr} (unresolved : s.resolve a = none) : s.read a = .unresolved := by
  simp only [State.read, unresolved]

/-- Settles O47: `State.resolve` names exactly the records of the statement. -/
theorem signalAddressesResolve : Obligations.SignalAddressesResolve := by
  intro s a usable assigned names
  have resolves : ∀ i, s.resolve a = some i ↔ names i := fun i => by
    rw [State.resolve_eq_some, Tables.assigned_iff, and_comm]
    refine and_congr_right fun _ => ?_
    cases selected : a.selector with
    | none => rw [State.addressIndex_of_fixed selected, Option.some.injEq, eq_comm, Fin.val_inj]
    | some sel => rw [State.addressIndex_of_selector selected, ViewQuality.usable_iff]
  refine ⟨fun i named => State.read_of_resolved ((resolves i).2 named), fun nothing => State.read_of_unresolved ?_⟩
  exact Option.eq_none_iff_forall_ne_some.2 fun i resolved => nothing i ((resolves i).1 resolved)

/-! ### WRITE_SIGNAL (R15) -/

theorem finOf_of_le {n k : Nat} (past : n ≤ k) : finOf n k = none := dif_neg (by omega)

theorem Work.writeSignal_of_panel {w : Work} {i : SigIx} (value : Int) (panel : w.st.tables.ownedBy .panel i = true) :
    w.writeSignal i.val value = ⟨w.changeAt i (SigRec.written value .good), .done, []⟩ := by
  simp only [Work.writeSignal, finOf_val, panel, if_true]

theorem Work.writeSignal_of_other {w : Work} {i : SigIx} (value : Int) (other : w.st.tables.ownedBy .panel i = false) :
    w.writeSignal i.val value = w.refuse .area := by
  simp [Work.writeSignal, other]

theorem Work.writeSignal_of_past {w : Work} {index : Nat} (value : Int) (past : 512 ≤ index) :
    w.writeSignal index value = w.refuse .range := by
  simp only [Work.writeSignal, finOf_of_le past]

/-- R126, R175: a command that changes one record and is DONE leaves the record changed, the reply due, and that record to check. -/
theorem State.manage_of_changeAt {s : State} (awake : s.awake) (receives : s.festoonReceives = true) (tag : BitVec 6) (code : Nat)
    {need : Nat} {req : List Byte} (fits : requestFits req = true) (long : need ≤ req.length) {command : Work → Served} {i : SigIx}
    {f : SigRec → SigRec} (served : command s.festoonGood.work = ⟨s.festoonGood.work.changeAt i f, .done, []⟩) :
    s.manage tag code need req command = .next (Work.mk (State.replying tag code 0 [] s.festoonGood.fp.link.rate
      { s.festoonGood with image := s.festoonGood.image.set i (f (s.festoonGood.image.get i)) }) (fun j => decide (j = i))).close := by
  rw [State.manage_eq awake receives tag code need fits, withRequest_of_le long, served]
  rfl

/-- Settles O17: the three outcomes of `Work.writeSignal`, each carried through `State.manage`. -/
theorem writeSignalWritesPanelRecords : Obligations.WriteSignalWritesPanelRecords := by
  intro tag req s awake receives fits long u
  refine ⟨fun i index panel => ?_, fun i index other => ?_, fun past => ?_⟩
  · have served := Work.writeSignal_of_panel (w := u.work) (intAt req 2) panel
    rw [index] at served
    have taken := State.manage_of_changeAt awake receives tag 0x08 fits long served
    exact taken
  · have served := Work.writeSignal_of_other (w := u.work) (intAt req 2) other
    rw [index] at served
    exact State.manage_of_untouched awake receives tag 0x08 fits long served fun _ => rfl
  · exact State.manage_of_untouched awake receives tag 0x08 fits long (Work.writeSignal_of_past _ past) fun _ => rfl

/-! ### FORCE, RELEASE and RELEASE_ALL (R16, R17) -/

section
variable {w : Work} {i : SigIx}

theorem Work.force_of_config (index : Nat) (value : Int) (config : w.st.operating = .config) :
    w.force index value = w.refuse .state := by
  simp only [Work.force, config]

theorem Work.force_of_past {index : Nat} (value : Int) (run : w.st.operating = .run) (past : 512 ≤ index) :
    w.force index value = w.refuse .range := by
  simp only [Work.force, run, finOf_of_le past]

theorem Work.force_of_unforceable (value : Int) (run : w.st.operating = .run) (unforceable : w.st.tables.forceable i = false) :
    w.force i.val value = w.refuse .area := by
  simp [Work.force, run, unforceable]

theorem Work.force_of_full (value : Int) (run : w.st.operating = .run) (forceable : w.st.tables.forceable i = true)
    (free : (w.st.image.get i).force = none) (full : 32 ≤ w.st.forceCount) : w.force i.val value = w.refuse .full := by
  simp [Work.force, run, forceable, free, Config.forceLimit, full]

theorem Work.force_of_room (value : Int) (run : w.st.operating = .run) (forceable : w.st.tables.forceable i = true)
    (room : (w.st.image.get i).force ≠ none ∨ w.st.forceCount < 32) :
    w.force i.val value = ⟨w.changeAt i (SigRec.forcedTo value), .done, []⟩ := by
  have notFull : ((w.st.image.get i).force.isNone && decide (Config.forceLimit ≤ w.st.forceCount)) = false := by
    cases room with
    | inl forced => simp [forced]
    | inr below => simp [Config.forceLimit, Nat.not_le.2 below]
  simp [Work.force, run, forceable, notFull]

theorem Work.release_of_forced (forced : (w.st.image.get i).force ≠ none) :
    w.release i.val = ⟨w.changeAt i SigRec.released, .done, []⟩ := by
  simp [Work.release, Option.isSome_iff_ne_none.2 forced]

theorem Work.release_of_free (free : (w.st.image.get i).force = none) : w.release i.val = ⟨w, .done, []⟩ := by
  simp [Work.release, free]

theorem Work.release_of_past {index : Nat} (past : 512 ≤ index) : w.release index = w.refuse .range := by
  simp only [Work.release, finOf_of_le past]

end

/-- R17: RELEASE_ALL leaves every record without a force part, and nothing else of it changed. -/
theorem Work.releaseAll_image (w : Work) (i : SigIx) :
    w.releaseAll.work.st.image.get i = { w.st.image.get i with force := none } := by
  rw [Work.releaseAll, Work.change_image]
  split
  next => rfl
  next free => exact congrArg (fun part => { w.st.image.get i with force := part }) (Option.not_isSome_iff_eq_none.1 free)

/-- Settles O18: the outcomes of `Work.force`, `Work.release` and `Work.releaseAll`, each carried through `State.manage`. -/
theorem forcesAreSetAndReleased : Obligations.ForcesAreSetAndReleased := by
  constructor
  · intro tag req s awake receives fits long u refused
    have refuses {st : Status} (served : u.work.force (wordAt req 0) (intAt req 2) = u.work.refuse st) : refused (statusCode st) :=
      State.manage_of_untouched awake receives tag 0x09 fits long served fun _ => rfl
    refine ⟨fun config => refuses (Work.force_of_config _ _ config), fun run past => refuses (Work.force_of_past _ run past),
      fun i run index => ⟨fun unforceable => ?_, fun forceable free full => ?_, fun forceable room => ?_⟩⟩
    · exact refuses (index ▸ Work.force_of_unforceable _ run unforceable)
    · exact refuses (index ▸ Work.force_of_full _ run forceable free full)
    · have served := Work.force_of_room (w := u.work) (intAt req 2) run forceable room
      rw [index] at served
      have taken := State.manage_of_changeAt awake receives tag 0x09 fits long served
      exact taken
  · intro tag req s awake receives fits u
    refine ⟨fun i long index forced => ?_, fun i long index free => ?_, fun long past => ?_, ?_⟩
    · have served := Work.release_of_forced (w := u.work) forced
      rw [index] at served
      have taken := State.manage_of_changeAt awake receives tag 0x0A fits long served
      exact taken
    · have served := Work.release_of_free (w := u.work) free
      rw [index] at served
      exact State.manage_of_untouched awake receives tag 0x0A fits long served fun _ => rfl
    · exact State.manage_of_untouched awake receives tag 0x0A fits long (Work.release_of_past past) fun _ => rfl
    · refine ⟨_, Work.releaseAll_image u.work, ?_⟩
      exact State.manage_eq awake receives tag 0x0B 0 fits _

end Sys2Proof.Machine
end

/-! # Proofs about the sweep of the gates (R14, R50, R51, R57 to R59) -/

section

namespace Sys2Proof.Machine

/-! ### The output signals (R14, R57) -/

theorem mem_indices {n : Nat} (i : Fin n) : i ∈ indices n := List.mem_finRange i

/-- R14, R57: the output signal of one gate is written, if the gate is enabled. -/
def Work.writeOutput (w : Work) (g : GateIx) : Work :=
  let c := w.st.tables.gates.get g
  if c.enabled then w.changeAt c.output (SigRec.written (if (w.st.gateRt.get g).state == .opened then 1 else 0) .good) else w

section
variable (w : Work) (g : GateIx)

theorem Work.writeOutput_of_enabled (enabled : (w.st.tables.gates.get g).enabled = true) : w.writeOutput g =
    w.changeAt (w.st.tables.gates.get g).output
      (SigRec.written (if (w.st.gateRt.get g).state == .opened then 1 else 0) .good) := if_pos enabled

theorem Work.writeOutput_of_disabled (disabled : (w.st.tables.gates.get g).enabled = false) : w.writeOutput g = w :=
  if_neg (by simp [disabled])

theorem Work.writeOutput_frame : (w.writeOutput g).st = { w.st with image := (w.writeOutput g).st.image } := by
  cases enabled : (w.st.tables.gates.get g).enabled with
  | false => rw [w.writeOutput_of_disabled g enabled]
  | true => rw [w.writeOutput_of_enabled g enabled]; rfl

@[simp] theorem Work.writeOutput_tables : (w.writeOutput g).st.tables = w.st.tables := by rw [Work.writeOutput_frame]
@[simp] theorem Work.writeOutput_gateRt : (w.writeOutput g).st.gateRt = w.st.gateRt := by rw [Work.writeOutput_frame]

theorem Work.writeOutput_image (i : SigIx) : (w.writeOutput g).st.image.get i =
    if (w.st.tables.gates.get g).enabled = true ∧ (w.st.tables.gates.get g).output = i then
      SigRec.written (if (w.st.gateRt.get g).state = .opened then 1 else 0) .good (w.st.image.get i)
    else w.st.image.get i := by
  cases enabled : (w.st.tables.gates.get g).enabled with
  | false => simp [w.writeOutput_of_disabled g enabled]
  | true =>
    rw [w.writeOutput_of_enabled g enabled]
    simp only [Work.changeAt_image, true_and, beq_iff_eq]
    by_cases named : (w.st.tables.gates.get g).output = i
    · rw [if_pos named.symm, if_pos named, named]
    · rw [if_neg (named ·.symm), if_neg named]

theorem Work.writeOutput_touched (i : SigIx) : (w.writeOutput g).touched i = true ↔
    w.touched i = true ∨ (w.st.tables.gates.get g).enabled = true ∧ (w.st.tables.gates.get g).output = i := by
  cases enabled : (w.st.tables.gates.get g).enabled with
  | false => simp [w.writeOutput_of_disabled g enabled]
  | true =>
    rw [w.writeOutput_of_enabled g enabled, eq_comm (b := i)]
    simp only [Work.changeAt, Bool.or_eq_true, decide_eq_true_eq, true_and]

end

/-- Writing outputs changes the image alone. -/
theorem Work.foldl_writeOutput_frame (gs : List GateIx) (w : Work) :
    (gs.foldl Work.writeOutput w).st = { w.st with image := (gs.foldl Work.writeOutput w).st.image } := by
  induction gs generalizing w with
  | nil => rfl
  | cons g gs ih => rw [List.foldl_cons, ih, w.writeOutput_frame g]

/-- R14: a record that only one gate's output names is written with that gate's output where the gate comes by; a record that none names
is kept. -/
theorem Work.foldl_writeOutput_image {t : Tables} {rt : Tab GateRt 32} (g : GateIx) (i : SigIx) (gs : List GateIx) {w : Work}
    (tables : w.st.tables = t) (gates : w.st.gateRt = rt)
    (alone : ∀ h ∈ gs, (t.gates.get h).enabled = true → (t.gates.get h).output = i → h = g) :
    (gs.foldl Work.writeOutput w).st.image.get i =
      if g ∈ gs ∧ (t.gates.get g).enabled = true ∧ (t.gates.get g).output = i then
        SigRec.written (if (rt.get g).state = .opened then 1 else 0) .good (w.st.image.get i)
      else w.st.image.get i := by
  induction gs generalizing w with
  | nil => simp
  | cons h gs ih =>
    rw [List.foldl_cons, ih (by rw [Work.writeOutput_tables, tables]) (by rw [Work.writeOutput_gateRt, gates])
      fun k member => alone k (.tail _ member), Work.writeOutput_image, tables, gates]
    by_cases writes : (t.gates.get h).enabled = true ∧ (t.gates.get h).output = i
    · obtain rfl := alone h (.head _) writes.1 writes.2
      simp [writes, SigRec.written]
    · rw [if_neg writes]
      by_cases first : g = h
      · subst first; simp [writes]
      · simp [first]

theorem Work.foldl_writeOutput_touched (i : SigIx) (gs : List GateIx) (w : Work) : (gs.foldl Work.writeOutput w).touched i = true ↔
    w.touched i = true ∨ ∃ g ∈ gs, (w.st.tables.gates.get g).enabled = true ∧ (w.st.tables.gates.get g).output = i := by
  induction gs generalizing w with
  | nil => simp
  | cons g gs ih => rw [List.foldl_cons, ih, Work.writeOutput_touched, Work.writeOutput_tables, List.exists_mem_cons_iff, or_assoc]

theorem Work.writeOutputs_eq (w : Work) : w.writeOutputs = (indices 32).foldl Work.writeOutput w := rfl

theorem Work.writeOutputs_frame (w : Work) : w.writeOutputs.st = { w.st with image := w.writeOutputs.st.image } := by
  rw [Work.writeOutputs_eq]
  exact Work.foldl_writeOutput_frame _ _

theorem Work.writeOutputs_touched (w : Work) (i : SigIx) : w.writeOutputs.touched i = true ↔
    w.touched i = true ∨ ∃ g, (w.st.tables.gates.get g).enabled = true ∧ (w.st.tables.gates.get g).output = i := by
  rw [Work.writeOutputs_eq, Work.foldl_writeOutput_touched]
  simp only [mem_indices, true_and]

/-- R14: an output signal that one enabled gate has is written. -/
theorem Work.writeOutputs_image_of_output {w : Work} {g : GateIx} (enabled : (w.st.tables.gates.get g).enabled = true)
    (alone : ∀ h, (w.st.tables.gates.get h).enabled = true → (w.st.tables.gates.get h).output = (w.st.tables.gates.get g).output → h = g) :
    w.writeOutputs.st.image.get (w.st.tables.gates.get g).output =
      SigRec.written (if (w.st.gateRt.get g).state = .opened then 1 else 0) .good (w.st.image.get (w.st.tables.gates.get g).output) := by
  rw [Work.writeOutputs_eq, Work.foldl_writeOutput_image g _ _ rfl rfl fun h _ => alone h, if_pos ⟨mem_indices g, enabled, rfl⟩]

theorem Work.writeOutputs_image_of_other {w : Work} {i : SigIx}
    (unnamed : ∀ g, (w.st.tables.gates.get g).enabled = true → (w.st.tables.gates.get g).output ≠ i) :
    w.writeOutputs.st.image.get i = w.st.image.get i := by
  rw [Work.writeOutputs_eq, Work.foldl_writeOutput_image 0 _ _ rfl rfl fun h _ enabled named => absurd named (unnamed h enabled),
    if_neg fun ⟨_, enabled, named⟩ => unnamed 0 enabled named]

/-! ### The events (R58) -/

theorem gateEvents_eq (g : GateIx) (before after : GateState) : gateEvents g before after =
    if after = .opened ∧ before ≠ .opened then [.gateOpened g]
    else if before = .opened ∧ after ≠ .opened then [.gateClosed g (decide (after = .locked))]
    else [] := by
  cases before <;> cases after <;> rfl

/-! ### The chain requests (R59) -/

/-- What a sweep has changed before it requests chains: the gates, the image and the queue of events. -/
def State.withSwept (gates : Tab GateRt 32) (image : Tab SigRec 512) (events : List EventRecord) (ovf : Bool) (s : State) : State :=
  { s with gateRt := gates, image := image, events := events, ovf := ovf }

section
variable (gates : Tab GateRt 32) (image : Tab SigRec 512) (events : List EventRecord) (ovf : Bool)

/-- R97: a request depends on nothing that a sweep changes. -/
theorem State.requestIf_withSwept (s : State) (target : Option ChainTarget) :
    State.requestIf target (s.withSwept gates image events ovf) = (State.requestIf target s).withSwept gates image events ovf := by
  have turn (l : MasterLine) (k : SlotIx) :
      (s.withSwept gates image events ovf).requestTurn l k = (s.requestTurn l k).withSwept gates image events ovf := by
    have port : (s.withSwept gates image events ovf).port l = s.port l := by cases l <;> rfl
    have entry : (s.withSwept gates image events ovf).activeEntry l k = s.activeEntry l k := by cases l <;> rfl
    have queued (f : MasterPort → MasterPort) :
        (s.withSwept gates image events ovf).onPort l f = (s.onPort l f).withSwept gates image events ovf := by cases l <;> rfl
    unfold State.requestTurn
    rw [port, entry, queued]
    cases (s.port l).state with
    | off | search | held | detached => rfl
    | cycling =>
      cases s.activeEntry l k with
      | none => rfl
      | some e =>
        simp only [apply_ite (State.withSwept gates image events ovf)]
        rfl
  match target with
  | none | some .l => rfl
  | some (.sp k) => exact turn .sp k
  | some (.cp k) => exact turn .cp k

end

/-- R96: a chain request changes the ports and the terminals alone. -/
theorem State.requestIf_frame (s : State) (target : Option ChainTarget) : State.requestIf target s =
    { s with sp := (State.requestIf target s).sp, cp := (State.requestIf target s).cp, tio := (State.requestIf target s).tio } := by
  have turn (l : MasterLine) (k : SlotIx) : s.requestTurn l k =
      { s with sp := (s.requestTurn l k).sp, cp := (s.requestTurn l k).cp, tio := (s.requestTurn l k).tio } := by
    obtain same | ⟨-, -, taken⟩ := s.requestTurn_cases l k
    · rw [same]
    · rw [taken]; cases l <;> rfl
  match target with
  | none | some .l => rfl
  | some (.sp k) => exact turn .sp k
  | some (.cp k) => exact turn .cp k

/-- R59: the chain requests of the gates that entered or left OPEN, in the order given. -/
def State.crossChains (before after : Tab GateRt 32) (t : Tables) (gs : List GateIx) (s : State) : State :=
  gs.foldl (fun s g => if (after.get g).state = .opened ↔ (before.get g).state ≠ .opened then
    State.requestIf (t.gates.get g).chain s else s) s

section
variable (before after : Tab GateRt 32) (t : Tables)

theorem State.crossChains_frame (gs : List GateIx) (s : State) : s.crossChains before after t gs =
    { s with sp := (s.crossChains before after t gs).sp, cp := (s.crossChains before after t gs).cp
             tio := (s.crossChains before after t gs).tio } := by
  unfold State.crossChains
  induction gs generalizing s with
  | nil => rfl
  | cons g gs ih =>
    rw [List.foldl_cons]
    split
    · rw [ih, State.requestIf_frame]
    · exact ih s

theorem crossed_iff (before after : GateState) : crossed before after = true ↔ (after = .opened ↔ before ≠ .opened) := by
  cases before <;> cases after <;> decide

/-- R59: the requests of a sweep, on the part with its gates, image and events changed, are those of the crossed gates on the part before. -/
theorem State.sweepChains_withSwept (image : Tab SigRec 512) (events : List EventRecord) (ovf : Bool) {s : State} (tables : s.tables = t) :
    State.sweepChains before (s.withSwept after image events ovf) =
      (s.crossChains before after t (indices 32)).withSwept after image events ovf := by
  unfold State.sweepChains State.crossChains
  generalize indices 32 = gs
  induction gs generalizing s with
  | nil => rfl
  | cons g gs ih =>
    rw [List.foldl_cons, List.foldl_cons]
    by_cases cross : (after.get g).state = .opened ↔ (before.get g).state ≠ .opened
    · rw [if_pos cross, ← ih (by rw [State.requestIf_frame]; exact tables), ← State.requestIf_withSwept, ← tables]
      exact congrArg (List.foldl _ · gs) (if_pos ((crossed_iff _ _).2 cross))
    · rw [if_neg cross, ← ih tables]
      exact congrArg (List.foldl _ · gs) (if_neg (cross ∘ (crossed_iff _ _).1))

end

/-! ### SWEEP -/

/-- R51, R57: the gates after a sweep. -/
def State.sweptGates (s : State) : Tab GateRt 32 := s.gateRt.mapIdx fun g rt => s.sweptGate g rt

theorem State.sweptGates_of_enabled {s : State} {g : GateIx} (enabled : (s.tables.gates.get g).enabled = true) :
    let n := gateStep (s.tables.gates.get g) (s.rawResult g) (s.rearmed (s.tables.gates.get g)) (s.gateRt.get g).state (s.gateRt.get g).count
    s.sweptGates.get g = ⟨n.1, n.2, n.1⟩ := by
  simp [State.sweptGates, State.sweptGate, enabled]

theorem State.sweptGates_of_disabled {s : State} {g : GateIx} (disabled : (s.tables.gates.get g).enabled = false) :
    s.sweptGates.get g = s.gateRt.get g := by
  simp [State.sweptGates, State.sweptGate, disabled]

/-- R14, R57: the part with its gates stepped and its output signals written. -/
def State.outputsWritten (s : State) : Work := (s.work.on fun s => { s with gateRt := s.sweptGates }).writeOutputs

theorem State.sweep_eq (s : State) : s.work.sweep =
    (s.outputsWritten.on fun u => u.raiseAll (sweepEvents s.gateRt u.gateRt)).on fun u =>
      (u.sweepChains s.gateRt).restartSweepTimer := rfl

theorem State.outputsWritten_frame (s : State) :
    s.outputsWritten.st = { s with gateRt := s.sweptGates, image := s.outputsWritten.st.image } := by
  have frame := Work.writeOutputs_frame (s.work.on fun s => { s with gateRt := s.sweptGates })
  unfold State.outputsWritten
  generalize Work.writeOutputs _ = w at frame ⊢
  exact frame

theorem State.outputsWritten_image_of_output {s : State} {g : GateIx} (enabled : (s.tables.gates.get g).enabled = true)
    (alone : ∀ h, (s.tables.gates.get h).enabled = true → (s.tables.gates.get h).output = (s.tables.gates.get g).output → h = g) :
    s.outputsWritten.st.image.get (s.tables.gates.get g).output =
      SigRec.written (if (s.sweptGates.get g).state = .opened then 1 else 0) .good (s.image.get (s.tables.gates.get g).output) := by
  have written := Work.writeOutputs_image_of_output (w := s.work.on fun s => { s with gateRt := s.sweptGates }) enabled alone
  unfold State.outputsWritten
  generalize Work.writeOutputs _ = w at written ⊢
  exact written

theorem State.outputsWritten_image_of_other {s : State} {i : SigIx}
    (unnamed : ∀ g, (s.tables.gates.get g).enabled = true → (s.tables.gates.get g).output ≠ i) :
    s.outputsWritten.st.image.get i = s.image.get i := by
  have kept := Work.writeOutputs_image_of_other (w := s.work.on fun s => { s with gateRt := s.sweptGates }) unnamed
  unfold State.outputsWritten
  generalize Work.writeOutputs _ = w at kept ⊢
  exact kept

/-- R57 to R59: a sweep, part by part. -/
theorem State.sweep_st (s : State) :
    let raised := s.raiseAll (sweepEvents s.gateRt s.sweptGates)
    let m := s.crossChains s.gateRt s.sweptGates s.tables (indices 32)
    s.work.sweep.st = { s with
      gateRt := s.sweptGates, image := s.outputsWritten.st.image, events := raised.events, ovf := raised.ovf
      sp := m.sp, cp := m.cp, tio := m.tio, sweepTimer := some s.tables.sweepPeriod } := by
  have chains := s.crossChains_frame s.gateRt s.sweptGates s.tables (indices 32)
  have swept : s.work.sweep.st = (State.sweepChains s.gateRt (s.outputsWritten.st.raiseAll
      (sweepEvents s.gateRt s.outputsWritten.st.gateRt))).restartSweepTimer := by
    rw [State.sweep_eq, Work.on_st, Work.on_st]
  have queued : s.outputsWritten.st.raiseAll (sweepEvents s.gateRt s.sweptGates) =
      s.withSwept s.sweptGates s.outputsWritten.st.image (s.raiseAll (sweepEvents s.gateRt s.sweptGates)).events
        (s.raiseAll (sweepEvents s.gateRt s.sweptGates)).ovf := by
    obtain ⟨events, ovf⟩ := State.raiseAll_congr (s := s.outputsWritten.st) (t := s) (sweepEvents s.gateRt s.sweptGates)
      (by rw [s.outputsWritten_frame]) (by rw [s.outputsWritten_frame]) (by rw [s.outputsWritten_frame])
    rw [State.raiseAll_frame, events, ovf]
    have frame := s.outputsWritten_frame
    generalize s.outputsWritten.st = u at frame ⊢
    rw [frame]
    rfl
  have gates : s.outputsWritten.st.gateRt = s.sweptGates := by rw [s.outputsWritten_frame]
  rw [swept, gates, queued, State.sweepChains_withSwept _ _ s.tables _ _ _ rfl]
  generalize State.crossChains _ _ _ _ s = m at chains ⊢
  generalize s.raiseAll _ = raised
  generalize s.outputsWritten.st.image = image
  rw [chains]
  rfl

/-- R14: the records that a sweep touches are the output signals. -/
theorem State.sweep_touched (s : State) (i : SigIx) : s.work.sweep.touched i = true ↔
    ∃ g, (s.tables.gates.get g).enabled = true ∧ (s.tables.gates.get g).output = i := by
  have touched : s.work.sweep.touched i = s.outputsWritten.touched i := by
    rw [State.sweep_eq, Work.on_touched, Work.on_touched]
  rw [touched, State.outputsWritten, Work.writeOutputs_touched]
  simp only [Work.on_touched, State.work_touched, Bool.false_eq_true, false_or]
  exact Iff.rfl

/-- Settles O37: the clauses are the fields of `State.sweep_st`, which the watch checks keep. -/
theorem sweepStepsEveryEnabledGate : Obligations.SweepStepsEveryEnabledGate := by
  intro s awake run timer
  have possible : (s.operating == .run && s.sweepTimer.isSome) = true := by
    simp [run, Option.isSome_iff_ne_none.2 timer]
  have gates : s.work.sweep.close.gateRt = s.sweptGates := by rw [Work.close_gateRt, State.sweep_st]
  have image : s.work.sweep.close.image = s.outputsWritten.st.image := by rw [Work.close_image, State.sweep_st]
  have events : (indices 32).flatMap (fun g =>
      if (s.sweptGates.get g).state = .opened ∧ (s.gateRt.get g).state ≠ .opened then [.gateOpened g]
      else if (s.gateRt.get g).state = .opened ∧ (s.sweptGates.get g).state ≠ .opened then
        [.gateClosed g (decide ((s.sweptGates.get g).state = .locked))]
      else []) = sweepEvents s.gateRt s.sweptGates :=
    List.flatMap_congr fun g _ => (gateEvents_eq g _ _).symm
  refine ⟨s.work.sweep.close, State.occurs_of _ awake possible, ?_⟩
  rw [gates, image, events]
  refine ⟨fun g enabled => State.sweptGates_of_enabled enabled, fun g disabled => State.sweptGates_of_disabled disabled,
    fun g enabled alone => State.outputsWritten_image_of_output enabled alone, fun i unnamed => State.outputsWritten_image_of_other unnamed,
    _, _, rfl, rfl, ?_⟩
  exact Work.ends_of_eq _ s.sweep_st.symm s.sweep_touched

end Sys2Proof.Machine
end

/-! # Proofs about what validated tables are (R6, R24 to R26, R62 to R64, R101 to R104, R118, R142, R151)

Where the validation finds nothing, each of its passes names nothing, and so no entry fails for any reason. -/

section

namespace Sys2Proof.Machine

/-! ### No entry fails -/

section
variable {t : Tables}

theorem Tables.pass_of_valid (valid : t.validate = none) (r : InvalidReason) : t.pass r = none := by
  rw [t.validate_eq, List.findSome?_eq_none_iff] at valid
  exact Option.map_eq_none_iff.mp (valid r (mem_invalidReasons r))

/-- R40: where a pass over the terms names nothing, no term of an enabled gate fails. -/
theorem Tables.terms_of_pass {bad : Term → Bool}
    (silent : ((t.examinedTerms.find? fun x => bad x.2).map (·.1)).map (fun n => (TableId.term, n)) = none) {g : GateIx} {j : Fin 256}
    (enabled : (t.gates.get g).enabled = true) (first : g.val * 8 ≤ j.val) (last : j.val < g.val * 8 + (t.gates.get g).termCount) :
    bad (t.terms.get j) = false := by
  have none := List.find?_eq_none.mp (Option.map_eq_none_iff.mp (Option.map_eq_none_iff.mp silent))
  have member : (j.val, t.terms.get j) ∈ t.examinedTerms :=
    (t.mem_examinedTerms _).mpr ⟨g, enabled, (t.mem_usedTerms g _).mpr ⟨j, first, last, rfl⟩⟩
  exact Bool.eq_false_iff.mpr (none _ member)

/-- R62: the term reads a signal that no area holds. -/
theorem Tables.termSignal_iff (x : Term) : t.termSignal x = true ↔
    x.test ≠ .gate ∧ x.test ≠ .always ∧ ∀ o, ¬t.Assigns o (x.addr.selector.getD x.addr.base) := by
  have reads : x.test.reads = true ↔ x.test ≠ .gate ∧ x.test ≠ .always := by cases x.test <;> simp [Test.reads]
  rw [Tables.termSignal, Bool.and_eq_true, reads, and_assoc]
  cases x.addr.selector <;> simp only [t.not_assigned_iff, Option.getD]

/-- R62: the term tests a gate that is not enabled. -/
theorem Tables.termGate_iff (x : Term) : t.termGate x = true ↔
    x.test = .gate ∧ ∀ h : GateIx, h.val = x.k.toNat → (t.gates.get h).enabled = false := by
  rw [Tables.termGate, Bool.and_eq_true, beq_iff_eq, Tab.get?_eq]
  refine and_congr_right fun _ => ?_
  by_cases inside : x.k.toNat < 32
  · rw [dif_pos inside]
    refine (Bool.not_eq_true' _).to_iff.trans ⟨fun off h same => ?_, fun off => off _ rfl⟩
    obtain rfl : h = ⟨_, inside⟩ := Fin.ext same
    exact off
  · rw [dif_neg inside]
    exact iff_of_true rfl fun h same => absurd h.isLt (same ▸ inside)

/-- R158: in validated tables no entry fails for any reason, however many terms a gate counts. -/
theorem Tables.not_fails_of_validated (valid : t.validate = none) (r : InvalidReason) (table : TableId) (n : Nat) :
    ¬t.Fails r table n := by
  have field := t.finds_placeField.nothing (Tables.pass_of_valid valid .placeField)
  have silent := Tables.pass_of_valid valid r
  cases r with
  | areaOverlap => exact t.finds_areaOverlap.nothing silent table n
  | areaBounds => exact t.finds_areaBounds.nothing silent table n
  | slotTagDup => exact t.finds_slotTagDup.nothing silent table n
  | slotLength => exact t.finds_slotLength.nothing silent table n
  | placeField => exact field table n
  | placeOwner => exact t.finds_placeOwner.nothing silent table n
  | placeOverlap => exact (t.finds_placeOverlap field).nothing silent table n
  | placeSelector => exact t.finds_placeSelector.nothing silent table n
  | placeConv => exact t.finds_placeConv.nothing silent table n
  | placeGate => exact t.finds_placeGate.nothing silent table n
  | placeSafe => exact t.finds_placeSafe.nothing silent table n
  | writerDup => exact t.finds_writerDup.nothing silent table n
  | profileCodeDup => exact t.finds_profileDup.nothing silent table n
  | profileNone => exact t.finds_profileNone.nothing silent table n
  | cycleBudget => exact t.finds_budget.nothing silent table n
  | gateTerms => exact t.finds_gateTerms.nothing silent table n
  | termSignal =>
    rintro ⟨-, g, j, rfl, enabled, first, last, fails⟩
    exact Bool.eq_false_iff.mp (Tables.terms_of_pass silent enabled first last) (Tables.termSignal_iff _ |>.mpr fails)
  | termGate =>
    rintro ⟨-, g, j, rfl, enabled, first, last, fails⟩
    exact Bool.eq_false_iff.mp (Tables.terms_of_pass silent enabled first last) (Tables.termGate_iff _ |>.mpr fails)
  | gateOutput => exact t.finds_gateOutput.nothing silent table n
  | gateRearm => exact t.finds_gateRearm.nothing silent table n
  | chainTarget => exact t.finds_chain.nothing silent table n
  | channelOff => exact t.finds_channel.nothing silent table n
  | feedChannel => exact t.finds_feed.nothing silent table n

/-- Two examined slots that differ stand one before the other. -/
theorem Tables.Places.before_or {x y : Examined} (hx : t.Places x) (hy : t.Places y) (ne : x ≠ y) : x.before y ∨ y.before x := by
  have sorted : t.examinedAll.Pairwise fun x y => x.before y ∨ y.before x := t.examinedAll_sorted.imp Or.inl
  have symmetric : Std.Symm fun x y : Examined => x.before y ∨ y.before x := ⟨fun _ _ => Or.symm⟩
  exact sorted.forall ((t.mem_examinedAll x).mpr hx) ((t.mem_examinedAll y).mpr hy) ne

end

/-! ### Areas (R6) -/

section
variable {t : Tables} (valid : t.validate = none)
include valid

theorem Tables.area_ordered {a : Fin 8} (enabled : (t.areas.get a).enabled = true) : (t.areas.get a).first ≤ (t.areas.get a).last :=
  not_lt.mp fun crossed => Tables.not_fails_of_validated valid .areaBounds .area a.val ⟨rfl, a, rfl, enabled, crossed⟩

/-- R6: two enabled entries share no index. -/
theorem Tables.area_eq_of_mem {a b : Fin 8} {i : SigIx} (ea : (t.areas.get a).enabled = true) (eb : (t.areas.get b).enabled = true)
    (fa : (t.areas.get a).first ≤ i) (la : i ≤ (t.areas.get a).last) (fb : (t.areas.get b).first ≤ i) (lb : i ≤ (t.areas.get b).last) :
    a = b := by
  obtain less | same | less := lt_trichotomy a b
  · exact absurd ⟨rfl, a, b, rfl, less, ea, eb, i, fa, la, fb, lb⟩ (Tables.not_fails_of_validated valid .areaOverlap .area b.val)
  · exact same
  · exact absurd ⟨rfl, b, a, rfl, less, eb, ea, i, fb, lb, fa, la⟩ (Tables.not_fails_of_validated valid .areaOverlap .area a.val)

theorem Tables.areas_disjoint {a b : Fin 8} (ne : a ≠ b) (ea : (t.areas.get a).enabled = true) (eb : (t.areas.get b).enabled = true) :
    (t.areas.get a).last < (t.areas.get b).first ∨ (t.areas.get b).last < (t.areas.get a).first := by
  by_contra meet
  obtain ⟨ab, ba⟩ := not_or.mp meet
  exact ne (Tables.area_eq_of_mem valid ea eb (i := max (t.areas.get a).first (t.areas.get b).first) (le_max_left _ _)
    (max_le (Tables.area_ordered valid ea) (not_lt.mp ab)) (le_max_right _ _) (max_le (not_lt.mp ba) (Tables.area_ordered valid eb)))

/-! ### Slots and their placements (R24 to R26, R101, R129) -/

theorem Tables.examined_eq_of_tag {x y : Examined} (hx : t.Examines x) (hy : t.Examines y) (set : x.set = y.set) (tag : x.tag = y.tag) :
    x = y := by
  have alone {x y : Examined} (hx : t.Examines x) (hy : t.Examines y) (set : y.set = x.set) (tag : y.tag = x.tag) : ¬y.before x := by
    rintro (code | ⟨-, less⟩)
    · rw [hx.table_eq, hy.table_eq] at code
      exact lt_irrefl _ code
    · exact Tables.not_fails_of_validated valid .slotTagDup .slot x.entry ⟨rfl, x, y, hx, hy, rfl, less, set, tag⟩
  by_contra ne
  obtain before | before := Tables.Places.before_or (.inl hx) (.inl hy) ne
  · exact alone hy hx set tag before
  · exact alone hx hy set.symm tag.symm before

theorem Tables.length_of_inbound {x : Examined} (hx : t.Examines x) (inbound : x.direction = .inbound) : 1 ≤ x.length :=
  Nat.one_le_iff_ne_zero.mpr fun zero =>
    Tables.not_fails_of_validated valid .slotLength .slot x.entry ⟨rfl, x, hx, rfl, inbound, zero⟩

theorem Tables.run_inside {x : Examined} (hx : t.Places x) : x.first + x.count ≤ 384 :=
  not_lt.mp fun past => Tables.not_fails_of_validated valid .placeField x.table x.entry ⟨x, hx, rfl, rfl, .inl past⟩

section
variable {x : Examined} {j : Nat} {p : Placement} (hx : t.Places x) (hp : t.Names x j p)
include hx hp

theorem Tables.placement_fits : p.direction = x.direction ∧ 1 ≤ p.width ∧ p.offset + p.width ≤ 8 * x.length := by
  have fits := fun bad => Tables.not_fails_of_validated valid .placeField x.table x.entry ⟨x, hx, rfl, rfl, .inr ⟨j, p, hp, bad⟩⟩
  obtain ⟨width, direction, inside⟩ := by simpa only [imp_false, not_or, not_not, not_lt] using fits
  exact ⟨direction, Nat.one_le_iff_ne_zero.mpr width, inside⟩

theorem Tables.placement_writes (inbound : p.direction = .inbound) : p.addr.selector = none ∧ p.gate = none ∧
    t.Assigns (match x.set with | .profile _ => .spreader | .cab => .cab | .festoon => .festoon | .trolley => .trolley) p.addr.base := by
  refine ⟨?_, ?_, ?_⟩
  · by_contra selector
    exact Tables.not_fails_of_validated valid .placeSelector x.table x.entry ⟨x, j, p, ⟨hx, rfl, rfl, hp⟩, inbound, selector⟩
  · refine Option.eq_none_iff_forall_ne_some.mpr fun g gate => ?_
    exact Tables.not_fails_of_validated valid .placeGate x.table x.entry ⟨x, j, p, g, ⟨hx, rfl, rfl, hp⟩, gate, .inl inbound⟩
  · by_contra owner
    exact Tables.not_fails_of_validated valid .placeOwner x.table x.entry ⟨x, j, p, ⟨hx, rfl, rfl, hp⟩, inbound, owner⟩

theorem Tables.safe_fits (outbound : p.direction = .outbound) : p.safe.toNat < 2 ^ p.width :=
  not_le.mp fun wide =>
    Tables.not_fails_of_validated valid .placeSafe x.table x.entry ⟨x, j, p, ⟨hx, rfl, rfl, hp⟩, outbound, wide⟩

theorem Tables.placement_gate_enabled {g : GateIx} (gate : p.gate = some g) : (t.gates.get g).enabled = true := by
  by_contra disabled
  exact Tables.not_fails_of_validated valid .placeGate x.table x.entry
    ⟨x, j, p, g, ⟨hx, rfl, rfl, hp⟩, gate, .inr (Bool.eq_false_iff.mpr disabled)⟩

theorem Tables.placement_conversion {c : Fin 64} (conversion : p.conversion = some c) : (t.conversions.get c).enabled = true ∧
    (p.direction = .inbound → (t.conversions.get c).lo ≤ 0 ∧ 0 ≤ (t.conversions.get c).hi) := by
  have sound := fun bad => Tables.not_fails_of_validated valid .placeConv x.table x.entry
    ⟨x, j, p, c, ⟨hx, rfl, rfl, hp⟩, conversion, bad⟩
  obtain ⟨enabled, zero⟩ := by simpa only [imp_false, not_or, not_and, not_lt, Bool.not_eq_false] using sound
  exact ⟨enabled, zero⟩

end

/-- R25: the fields of a run share no payload bit. -/
theorem Tables.fields_disjoint {x : Examined} {i j : Nat} {p q : Placement} (hx : t.Places x) (hp : t.Names x i p) (hq : t.Names x j q)
    (ne : i ≠ j) : p.offset + p.width ≤ q.offset ∨ q.offset + q.width ≤ p.offset := by
  obtain ⟨-, widthP, -⟩ := Tables.placement_fits valid hx hp
  obtain ⟨-, widthQ, -⟩ := Tables.placement_fits valid hx hq
  have apart := Tables.not_fails_of_validated valid .placeOverlap x.table x.entry
  by_contra meet
  have bits : p.offset ≤ max p.offset q.offset ∧ max p.offset q.offset < p.offset + p.width ∧
      q.offset ≤ max p.offset q.offset ∧ max p.offset q.offset < q.offset + q.width := by omega
  obtain ⟨p1, p2, q1, q2⟩ := bits
  obtain less | less := Nat.lt_or_gt_of_ne ne
  · exact apart ⟨x, i, j, p, q, ⟨hx, rfl, rfl, hp⟩, ⟨hx, rfl, rfl, hq⟩, less, _, p1, p2, q1, q2⟩
  · exact apart ⟨x, j, i, q, p, ⟨hx, rfl, rfl, hq⟩, ⟨hx, rfl, rfl, hp⟩, less, _, q1, q2, p1, p2⟩

/-- R25: a signal has one writing placement among the sets that can run together. -/
theorem Tables.writer_unique {x y : Examined} {i j : Nat} {p q : Placement} (hx : t.Places x) (hy : t.Places y)
    (sets : ∀ a b, x.set = .profile a → y.set = .profile b → a = b) (hp : t.Names x i p) (hq : t.Names y j q)
    (inP : p.direction = .inbound) (inQ : q.direction = .inbound) (base : p.addr.base = q.addr.base) : x = y ∧ i = j := by
  have conflict {x j p} (hx : t.Places x) (hp : t.Names x j p) (inP : p.direction = .inbound) : ¬t.Conflicts x j p := fun conflicts =>
    Tables.not_fails_of_validated valid .writerDup x.table x.entry ⟨x, j, p, ⟨hx, rfl, rfl, hp⟩, inP, conflicts⟩
  by_cases same : x = y
  · subst same
    obtain less | same | less := Nat.lt_trichotomy i j
    · exact absurd ⟨x, i, p, hx, hp, inP, base, .inl ⟨rfl, less⟩⟩ (conflict hy hq inQ)
    · exact ⟨rfl, same⟩
    · exact absurd ⟨x, j, q, hx, hq, inQ, base.symm, .inl ⟨rfl, less⟩⟩ (conflict hx hp inP)
  · obtain before | before := Tables.Places.before_or hx hy same
    · exact absurd ⟨x, i, p, hx, hp, inP, base, .inr ⟨before, sets⟩⟩ (conflict hy hq inQ)
    · exact absurd ⟨y, j, q, hy, hq, inQ, base.symm, .inr ⟨before, fun a b first second => (sets b a second first).symm⟩⟩
        (conflict hx hp inP)

/-! ### Profiles and the cycle budget (R104, R118) -/

theorem Tables.profile_eq_of_code {p q : ProfileIx} (ep : (t.profiles.get p).enabled = true) (eq : (t.profiles.get q).enabled = true)
    (code : (t.profiles.get p).typeCode = (t.profiles.get q).typeCode) : p = q := by
  obtain less | same | less := lt_trichotomy p q
  · exact absurd ⟨rfl, p, q, rfl, less, ep, eq, code⟩ (Tables.not_fails_of_validated valid .profileCodeDup .profile q.val)
  · exact same
  · exact absurd ⟨rfl, q, p, rfl, less, eq, ep, code.symm⟩ (Tables.not_fails_of_validated valid .profileCodeDup .profile p.val)

theorem Tables.profile_polls {p : ProfileIx} (enabled : (t.profiles.get p).enabled = true) :
    ∃ k, (t.masterSlots.get (profileEntry p k)).enabled = true ∧ (t.masterSlots.get (profileEntry p k)).direction = .inbound := by
  by_contra silent
  refine Tables.not_fails_of_validated valid .profileNone .profile p.val ⟨rfl, .inr ⟨p, rfl, enabled, fun k slot => ?_⟩⟩
  cases direction : (t.masterSlots.get (profileEntry p k)).direction with
  | inbound => exact absurd ⟨k, slot, direction⟩ silent
  | outbound => rfl

theorem Tables.profile_within_cycle {p : ProfileIx} (enabled : (t.profiles.get p).enabled = true) :
    ¬(t.lines.get 0).Exceeded fun k => t.masterSlots.get (profileEntry p k) := fun exceeded =>
  Tables.not_fails_of_validated valid .cycleBudget .profile p.val (.inr ⟨rfl, p, rfl, enabled, exceeded⟩)

theorem Tables.spreader_has_profile (enabled : (t.lines.get 0).enabled = true) : ∃ p, (t.profiles.get p).enabled = true := by
  by_contra none
  refine Tables.not_fails_of_validated valid .profileNone .profile 0 ⟨rfl, .inl ⟨rfl, enabled, fun p => ?_⟩⟩
  exact Bool.eq_false_iff.mpr fun profile => none ⟨p, profile⟩

theorem Tables.cab_within_cycle : ¬(t.lines.get 1).Exceeded fun k => t.masterSlots.get (cabEntry k) := fun exceeded =>
  Tables.not_fails_of_validated valid .cycleBudget .line 1 (.inl ⟨rfl, rfl, exceeded⟩)

/-! ### Gates, terms and chains (R62 to R64, R102) -/

section
variable {g : GateIx} (enabled : (t.gates.get g).enabled = true)
include enabled

theorem Tables.gate_has_term : 1 ≤ (t.gates.get g).termCount :=
  Nat.one_le_iff_ne_zero.mpr fun zero => Tables.not_fails_of_validated valid .gateTerms .gate g.val ⟨rfl, g, rfl, enabled, zero⟩

theorem Tables.gate_output_assigned : t.Assigns .gate (t.gates.get g).output := by
  by_contra outside
  exact Tables.not_fails_of_validated valid .gateOutput .gate g.val ⟨rfl, g, rfl, enabled, .inl outside⟩

theorem Tables.gate_output_unique {h : GateIx} (other : (t.gates.get h).enabled = true)
    (output : (t.gates.get h).output = (t.gates.get g).output) : h = g := by
  obtain less | same | less := lt_trichotomy h g
  · exact absurd ⟨rfl, g, rfl, enabled, .inr ⟨h, less, other, output⟩⟩ (Tables.not_fails_of_validated valid .gateOutput .gate g.val)
  · exact same
  · exact absurd ⟨rfl, h, rfl, other, .inr ⟨g, less, enabled, output.symm⟩⟩ (Tables.not_fails_of_validated valid .gateOutput .gate h.val)

theorem Tables.gate_rearm_assigned (latching : (t.gates.get g).latching = true) :
    ∃ a o, (t.gates.get g).rearm = some a ∧ a.selector = none ∧ t.Assigns o a.base := by
  by_contra unplanned
  refine Tables.not_fails_of_validated valid .gateRearm .gate g.val ⟨rfl, g, rfl, enabled, latching, fun a rearm => ?_⟩
  by_cases fixed : a.selector = none
  · exact .inr fun o assigned => unplanned ⟨a, o, rearm, fixed, assigned⟩
  · exact .inl fixed

theorem Tables.gate_chain_served {c : ChainTarget} (chain : (t.gates.get g).chain = some c) : t.Serves c := by
  by_contra unserved
  exact Tables.not_fails_of_validated valid .chainTarget .gate g.val (.inr ⟨rfl, g, c, rfl, enabled, chain, unserved⟩)

theorem Tables.term_in_plan {j : Fin 256} (first : g.val * 8 ≤ j.val) (last : j.val < g.val * 8 + (t.gates.get g).termCount) :
    ((t.terms.get j).test = .gate → ∃ h : GateIx, h.val = (t.terms.get j).k.toNat ∧ (t.gates.get h).enabled = true) ∧
    ((t.terms.get j).test ≠ .gate → (t.terms.get j).test ≠ .always →
      ∃ o, t.Assigns o ((t.terms.get j).addr.selector.getD (t.terms.get j).addr.base)) := by
  refine ⟨fun test => ?_, fun gate always => ?_⟩
  · by_contra disabled
    refine Tables.not_fails_of_validated valid .termGate .term j.val ⟨rfl, g, j, rfl, enabled, first, last, test, fun h same => ?_⟩
    exact Bool.eq_false_iff.mpr fun on => disabled ⟨h, same, on⟩
  · by_contra outside
    exact Tables.not_fails_of_validated valid .termSignal .term j.val
      ⟨rfl, g, j, rfl, enabled, first, last, gate, always, not_exists.mp outside⟩

end

theorem Tables.slot_chain_served {x : Examined} {c : ChainTarget} (hx : t.Examines x) (inbound : x.direction = .inbound)
    (chain : x.chain = some c) : t.ServesSet x.set c := by
  by_contra unserved
  exact Tables.not_fails_of_validated valid .chainTarget .slot x.entry (.inl ⟨rfl, x, c, hx, rfl, inbound, chain, unserved⟩)

/-! ### Channels and feeds (R142, R151) -/

theorem Tables.l0_channel_enabled {j : Nat} {i : Fin 384} {c : Fin 16} (inside : j < t.l0.count) (place : i.val = t.l0.first + j)
    (first : (t.placements.get i).offset / 16 ≤ c.val)
    (last : c.val ≤ ((t.placements.get i).offset + (t.placements.get i).width - 1) / 16) : (t.channels.get c).enabled = true := by
  by_contra disabled
  exact Tables.not_fails_of_validated valid .channelOff .trolley c.val ⟨rfl, c, rfl, Bool.eq_false_iff.mpr disabled, _, j,
    t.placements.get i, Tables.namesAt_l0 t |>.mpr ⟨rfl, inside, i, place, rfl⟩, first, last⟩

theorem Tables.feed_channels_enabled : ((t.feeds.get 0).enabled = true → (t.channels.get 15).enabled = true) ∧
    ((t.feeds.get 1).enabled = true → (t.channels.get 14).enabled = true) := by
  refine ⟨fun watched => ?_, fun watched => ?_⟩ <;> by_contra disabled
  · exact Tables.not_fails_of_validated valid .feedChannel .feed 0 ⟨rfl, .inl ⟨rfl, watched, Bool.eq_false_iff.mpr disabled⟩⟩
  · exact Tables.not_fails_of_validated valid .feedChannel .feed 1 ⟨rfl, .inr ⟨rfl, watched, Bool.eq_false_iff.mpr disabled⟩⟩

end

/-- Settles O15: clause by clause, an entry against it would fail for the reason of its pass. -/
theorem validatedTablesAreConsistent : Obligations.ValidatedTablesAreConsistent := by
  intro t valid
  refine ⟨fun a => Tables.area_ordered valid, fun a b => Tables.areas_disjoint valid, fun x y => Tables.examined_eq_of_tag valid,
    fun x => Tables.length_of_inbound valid, fun x => Tables.run_inside valid, fun x j p hx hp => ?_,
    fun x i j p q => Tables.fields_disjoint valid, fun x y i j p q => Tables.writer_unique valid,
    fun p q => Tables.profile_eq_of_code valid,
    fun p enabled => ⟨Tables.profile_polls valid enabled, Tables.profile_within_cycle valid enabled⟩,
    Tables.spreader_has_profile valid, Tables.cab_within_cycle valid,
    fun g enabled => ⟨Tables.gate_has_term valid enabled, Tables.gate_output_assigned valid enabled,
      fun h => Tables.gate_output_unique valid enabled, Tables.gate_rearm_assigned valid enabled,
      fun c => Tables.gate_chain_served valid enabled, fun j => Tables.term_in_plan valid enabled⟩,
    fun x c => Tables.slot_chain_served valid, fun j i c => Tables.l0_channel_enabled valid, Tables.feed_channels_enabled valid⟩
  obtain ⟨direction, width, inside⟩ := Tables.placement_fits valid hx hp
  exact ⟨direction, width, inside, Tables.placement_writes valid hx hp, Tables.safe_fits valid hx hp,
    fun g => Tables.placement_gate_enabled valid hx hp, fun c => Tables.placement_conversion valid hx hp⟩

end Sys2Proof.Machine
end

/-! # Proofs about the ranges and the qualities of the records, the scores and the queue of events (R1, R10 to R18, R34, R77, R78, R142, R171)

Two obligations speak of one part of the state, its `Ledger`: the records, the plan that says who owns them, the states of the ports that
say what an owner may leave in them, the scores and healths of the lines, and what the queue of events holds past its size. A record is
justified by one owner of its index (`Ledger.Grants`), or it is as a clearing leaves it; in validated tables an index has one owner at
most, so that this is what R10 to R18 say. `Ledger.Sound` gathers what the obligations say of a ledger. Most of what a command does leaves
the ledger alone; a source write, a mark or a clearing changes records in the area of one owner, and a port changes its state beside them.
-/

section
namespace Sys2Proof.Machine

/-! ### The ledger -/

/-- R77, R78: the score and the health of a line. -/
def Link.gauge (k : Link) : Nat × Health := (k.score, k.health)

/-- The records, the tables and port states that say what they may hold, the gauges of the lines, and what the queue of events holds past
its 32 records. -/
@[ext] structure Ledger where
  operating : Operating
  tables : Tables
  image : Tab SigRec 512
  sp : PortState
  cp : PortState
  spGauge : Nat × Health
  cpGauge : Nat × Health
  fpGauge : Nat × Health
  excess : Nat

def State.ledger (s : State) : Ledger :=
  ⟨s.operating, s.tables, s.image, s.sp.state, s.cp.state, s.sp.link.gauge, s.cp.link.gauge, s.fp.link.gauge, s.events.length - 32⟩

/-- The state of a master port. -/
def Ledger.port (x : Ledger) : MasterLine → PortState
  | .sp => x.sp
  | .cp => x.cp

/-- The ledger with the state of a master port replaced. -/
def Ledger.setPort (x : Ledger) (l : MasterLine) (st : PortState) : Ledger :=
  match l with
  | .sp => { x with sp := st }
  | .cp => { x with cp := st }

/-- The score and the health of a line. -/
def Ledger.gauge (x : Ledger) : Line → Nat × Health
  | .sp => x.spGauge
  | .cp => x.cpGauge
  | .fp => x.fpGauge

/-- The ledger with the gauge of a line replaced. -/
def Ledger.setGauge (x : Ledger) (l : Line) (g : Nat × Health) : Ledger :=
  match l with
  | .sp => { x with spGauge := g }
  | .cp => { x with cpGauge := g }
  | .fp => { x with fpGauge := g }

section
variable (x : Ledger)

@[simp] theorem Ledger.setGauge_self (l : Line) : x.setGauge l (x.gauge l) = x := by cases l <;> rfl
@[simp] theorem Ledger.setPort_self (l : MasterLine) : x.setPort l (x.port l) = x := by cases l <;> rfl
@[simp] theorem Ledger.setGauge_tables (l : Line) (g : Nat × Health) : (x.setGauge l g).tables = x.tables := by cases l <;> rfl
@[simp] theorem Ledger.setGauge_image (l : Line) (g : Nat × Health) : (x.setGauge l g).image = x.image := by cases l <;> rfl
@[simp] theorem Ledger.setGauge_excess (l : Line) (g : Nat × Health) : (x.setGauge l g).excess = x.excess := by cases l <;> rfl

@[simp] theorem Ledger.setPort_operating (l : MasterLine) (st : PortState) : (x.setPort l st).operating = x.operating := by cases l <;> rfl
@[simp] theorem Ledger.setPort_tables (l : MasterLine) (st : PortState) : (x.setPort l st).tables = x.tables := by cases l <;> rfl

theorem Ledger.setGauge_gauge (l m : Line) (g : Nat × Health) : (x.setGauge l g).gauge m = if m = l then g else x.gauge m := by
  cases l <;> cases m <;> rfl

end

section
variable (s : State)

theorem State.ledger_gauge (l : Line) : s.ledger.gauge l = (s.link l).gauge := by cases l <;> rfl
theorem State.ledger_port (l : MasterLine) : s.ledger.port l = (s.port l).state := by cases l <;> rfl

theorem State.ledger_setLink (l : Line) (k : Link) : (s.setLink l k).ledger = s.ledger.setGauge l k.gauge := by cases l <;> rfl

/-! ### What leaves the ledger alone -/

theorem State.ledger_setLink_of_gauge {l : Line} {k : Link} (gauge : k.gauge = (s.link l).gauge) : (s.setLink l k).ledger = s.ledger := by
  rw [s.ledger_setLink, gauge, ← s.ledger_gauge, Ledger.setGauge_self]

theorem State.ledger_setPort_of_state {l : MasterLine} {p : MasterPort} (gauge : p.link.gauge = (s.port l).link.gauge) :
    (s.setPort l p).ledger = s.ledger.setPort l p.state := by
  cases l <;> simp only [State.port] at gauge <;> simp only [State.ledger, State.setPort, gauge, Ledger.setPort]

theorem State.ledger_setPort_of_same {l : MasterLine} {p : MasterPort} (state : p.state = (s.port l).state)
    (gauge : p.link.gauge = (s.port l).link.gauge) : (s.setPort l p).ledger = s.ledger := by
  rw [s.ledger_setPort_of_state gauge, state, ← s.ledger_port, Ledger.setPort_self]

@[simp] theorem State.ledger_setPhase (l : Line) (p : LinePhase) : (s.setPhase l p).ledger = s.ledger := s.ledger_setLink_of_gauge rfl
@[simp] theorem State.ledger_judged (l : Line) : (s.judged l).ledger = s.ledger := s.ledger_setPhase l _
@[simp] theorem State.ledger_send (l : Line) (f : Frame) : (s.send l f).ledger = s.ledger := s.ledger_setPhase l _
@[simp] theorem State.ledger_stopSearch : s.stopSearch.ledger = s.ledger := rfl

/-- R171: an event takes the queue to its size at most. -/
@[simp] theorem State.ledger_raise (e : Event) : (s.raise e).ledger = s.ledger := by
  have excess : (s.raise e).events.length - 32 = s.events.length - 32 := by
    unfold State.raise
    split
    · next room =>
      unfold Config.queueSize at room
      simp only [List.length_append, List.length_singleton]
      omega
    · rfl
  unfold State.ledger
  rw [excess, State.raise_frame]

@[simp] theorem State.ledger_raiseAll (es : List Event) : (s.raiseAll es).ledger = s.ledger := by
  induction es generalizing s with
  | nil => rfl
  | cons e es ih => rw [State.raiseAll_cons, ih, s.ledger_raise]

theorem State.excess_raise (e : Event) : (s.raise e).events.length - 32 = s.events.length - 32 := congrArg Ledger.excess (s.ledger_raise e)

theorem State.excess_raiseAll (es : List Event) : (s.raiseAll es).events.length - 32 = s.events.length - 32 :=
  congrArg Ledger.excess (s.ledger_raiseAll es)

@[simp] theorem State.ledger_checkEntry (w : Fin 8) : (s.checkEntry w).ledger = s.ledger := by
  unfold State.checkEntry
  simp only
  split
  · split
    · exact s.ledger_raise _
    · exact s.ledger_raise _
  · rfl

@[simp] theorem State.ledger_watchChecks (touched : SigIx → Bool) : (s.watchChecks touched).ledger = s.ledger :=
  foldl_keeps State.ledger (fun s w => by
    simp only
    split
    · exact s.ledger_checkEntry w
    · rfl) _ s

end

@[simp] theorem Work.ledger_close (w : Work) : w.close.ledger = w.st.ledger := by
  unfold Work.close
  split
  · exact State.ledger_watchChecks _ _
  · rfl

theorem State.Ends.ledger {x t : State} {touched : SigIx → Prop} (h : x.Ends touched t) : t.ledger = x.ledger := by
  obtain ⟨marks, -, rfl⟩ := h
  exact Work.ledger_close _

/-! #### Cycles, turns and chain requests -/

section
variable (s : State) (l : MasterLine)

@[simp] theorem State.ledger_startCycle : (s.startCycle l).ledger = s.ledger := by
  by_cases idle : (s.port l).turn = .none ∧ (s.port l).queue = []
  · rw [s.startCycle_of_idle l idle.1 idle.2]
    exact s.ledger_setPort_of_same rfl rfl
  · rw [s.startCycle_behind l idle]
    exact s.ledger_setPort_of_same rfl rfl

@[simp] theorem State.ledger_cycleExpiry : (s.cycleExpiry l).ledger = s.ledger := by
  cases cycle : (s.port l).cycle with
  | none => rw [State.cycleExpiry_of_none cycle, s.ledger_startCycle]
  | some place =>
    rw [State.cycleExpiry_of_some cycle]
    split
    · exact s.ledger_setPort_of_same rfl rfl
    · exact (State.ledger_raise _ _).trans (s.ledger_setPort_of_same rfl rfl)

@[simp] theorem State.ledger_atBoundary : (s.atBoundary l).ledger = s.ledger := by
  obtain ⟨p, taken, state, link, -⟩ := s.atBoundary_eq l
  rw [taken]
  exact s.ledger_setPort_of_same state (congrArg Link.gauge link)

/-- A turn or a queue of a port is nothing to the ledger. -/
theorem State.ledger_onPort_of_same {f : MasterPort → MasterPort} (state : (f (s.port l)).state = (s.port l).state)
    (gauge : (f (s.port l)).link.gauge = (s.port l).link.gauge) : (s.onPort l f).ledger = s.ledger :=
  s.ledger_setPort_of_same state gauge

@[simp] theorem State.ledger_beginOut : (s.beginOut l).ledger = s.ledger := by
  unfold State.beginOut
  split
  · rfl
  · exact (State.ledger_onPort_of_same _ l rfl rfl).trans (s.ledger_send _ _)

@[simp] theorem State.ledger_endOut : (s.endOut l).ledger = s.ledger := by
  unfold State.endOut
  split
  · rfl
  · next k _ =>
    have ended : ((s.setPhase (masterLine l) .rested).onPort l fun p => { p with turn := .outGap k }).ledger = s.ledger :=
      (State.ledger_onPort_of_same _ l rfl rfl).trans (s.ledger_setPhase _ _)
    simp only
    split <;> exact ended

@[simp] theorem State.ledger_beginIn : (s.beginIn l).ledger = s.ledger := by
  unfold State.beginIn
  split
  · rfl
  · exact (State.ledger_onPort_of_same _ l rfl rfl).trans (s.ledger_send _ _)

@[simp] theorem State.ledger_openWindow : (s.openWindow l).ledger = s.ledger := by
  unfold State.openWindow
  split
  · rfl
  · exact (State.ledger_onPort_of_same _ l rfl rfl).trans (s.ledger_setPhase _ _)

@[simp] theorem State.ledger_requestTurn (k : SlotIx) : (s.requestTurn l k).ledger = s.ledger := by
  obtain same | ⟨-, -, taken⟩ := s.requestTurn_cases l k
  · rw [same]
  · rw [taken]
    exact s.ledger_setPort_of_same rfl rfl

@[simp] theorem State.ledger_requestIf (t : Option ChainTarget) : (State.requestIf t s).ledger = s.ledger :=
  match t with
  | none | some .l => rfl
  | some (.sp k) => s.ledger_requestTurn .sp k
  | some (.cp k) => s.ledger_requestTurn .cp k

@[simp] theorem State.ledger_sendHail : s.sendHail.ledger = s.ledger := s.ledger_send .sp hailFrame

@[simp] theorem State.ledger_unknownReply (code : BitVec 16) : (s.unknownReply code).ledger = s.ledger := by
  unfold State.unknownReply
  simp only
  split
  · rfl
  · exact s.ledger_raise _

/-! #### Monitors, terminals and answers -/

@[simp] theorem State.ledger_takeReading (d : Feed) : (s.takeReading d).ledger = s.ledger := by
  have step (h : Handover) (s : State) : (s.stepFeed d h).ledger = s.ledger := by
    unfold State.stepFeed
    simp only
    split
    · rfl
    · exact State.ledger_raise _ _
  unfold State.takeReading
  split
  · rfl
  · simp only
    split
    · exact step _ _
    · rfl

@[simp] theorem State.ledger_handOver (d : Feed) (outcome : Nat → Option ReadingOutcome) (readings : Tab (BitVec 12) 16) :
    (s.handOver d outcome readings).ledger = s.ledger := by
  unfold State.handOver
  split <;> rfl

@[simp] theorem State.ledger_beginAnswer : s.beginAnswer.ledger = s.ledger := by
  unfold State.beginAnswer
  split
  · rfl
  · exact s.ledger_send .fp _

@[simp] theorem State.ledger_beginReply : s.beginReply.ledger = s.ledger := by
  unfold State.beginReply
  split
  · rfl
  · exact s.ledger_setPhase .fp _

@[simp] theorem State.ledger_holdReset : s.holdReset.ledger = s.ledger := rfl

@[simp] theorem State.ledger_sweepChains (before : Tab GateRt 32) : (s.sweepChains before).ledger = s.ledger :=
  foldl_keeps State.ledger (fun s g => by
    split
    · exact s.ledger_requestIf _
    · rfl) _ s

/-! ### What changes the state of a port -/

theorem State.ledger_enterCycling : (s.enterCycling l).ledger = s.ledger.setPort l .cycling := by
  obtain ⟨cycle, turn, entered, -⟩ := s.enterCycling_eq l
  rw [entered]
  exact s.ledger_setPort_of_state rfl

theorem State.ledger_enterSearch : s.enterSearch.ledger = s.ledger.setPort .sp .search := rfl

theorem State.ledger_resumeCab : s.resumeCab.ledger = s.ledger.setPort .cp .cycling := State.ledger_enterCycling _ .cp

theorem State.ledger_attach (p : ProfileIx) (code : BitVec 16) (serial : BitVec 32) :
    (s.attach p code serial).ledger = s.ledger.setPort .sp .cycling := by
  unfold State.attach
  rw [State.ledger_enterCycling, State.ledger_stopSearch, State.ledger_raise]
  rfl

end

end Sys2Proof.Machine
end

section
namespace Sys2Proof.Machine

/-! ### What an owner's records may hold (R10 to R15, R142) -/

/-- R10 to R15, R142: the qualities that the records of an owner have, by the states of the master ports. -/
def Owner.Allows (o : Owner) (sp cp : PortState) (q : Quality) : Prop :=
  match o with
  | .spreader => q ≠ .suspect .opened ∧ (sp = .held → q = .absent ∨ q = .suspect .feed) ∧ (sp ≠ .cycling → sp ≠ .held → q = .absent)
  | .cab => q ≠ .suspect .opened ∧ (cp = .held → q = .absent ∨ q = .suspect .feed)
  | .festoon => q ≠ .suspect .opened ∧ q ≠ .suspect .feed
  | .trolley => q = .absent ∨ q = .suspect .opened ∨ q = .good ∨ q = .clamped
  | .gate | .panel => q = .good ∨ q = .absent

/-- R18: a cleared record is any owner's. -/
theorem Owner.allows_absent (o : Owner) (sp cp : PortState) : o.Allows sp cp .absent := by
  cases o <;> simp [Owner.Allows]

/-- A port's state is nothing to the other owners. -/
theorem Owner.allows_setPort {x : Ledger} {l : MasterLine} (st : PortState) {o : Owner} {q : Quality} (other : o ≠ areaOf l)
    (h : o.Allows x.sp x.cp q) : o.Allows (x.setPort l st).sp (x.setPort l st).cp q := by
  cases l with
  | sp =>
    cases o with
    | spreader => exact absurd rfl other
    | _ => exact h
  | cp =>
    cases o with
    | cab => exact absurd rfl other
    | _ => exact h

/-- R10: the qualities of a source write on a line in CYCLING, and of a signal gone STALE. -/
theorem areaOf_allows {l : MasterLine} {x : Ledger} (cycling : x.port l = .cycling) {q : Quality} (other : q ≠ .suspect .opened) :
    (areaOf l).Allows x.sp x.cp q := by
  cases l with
  | sp => exact ⟨other, fun held => PortState.noConfusion ((show x.sp = .cycling from cycling).symm.trans held), fun out => absurd cycling out⟩
  | cp => exact ⟨other, fun held => PortState.noConfusion ((show x.cp = .cycling from cycling).symm.trans held)⟩

/-! ### What a record may be -/

/-- R6, R18: an owner whose records are kept: in RUN any, in CONFIG the PANEL. -/
def Ledger.Counts (x : Ledger) (o : Owner) : Prop := x.operating = .run ∨ o = .panel

/-- An owner whose records are kept holds the index and allows the quality. -/
def Ledger.Grants (x : Ledger) (i : SigIx) (q : Quality) : Prop :=
  ∃ o, x.Counts o ∧ x.tables.ownedBy o i = true ∧ o.Allows x.sp x.cp q

/-- No owner whose records are kept holds the index. -/
def Ledger.Bare (x : Ledger) (i : SigIx) : Prop := ∀ o, x.Counts o → x.tables.ownedBy o i = false

/-- R10 to R15, R18, R142: an owner of the index allows the record's quality, or no owner holds it and the record is cleared. -/
def Ledger.Permits (x : Ledger) (i : SigIx) (r : SigRec) : Prop := x.Grants i r.quality ∨ (x.Bare i ∧ r = .absent)

section
variable {x : Ledger} {i : SigIx} {r : SigRec}

theorem Ledger.grants_absent {o : Owner} (counts : x.Counts o) (owned : x.tables.ownedBy o i = true) : x.Grants i .absent :=
  ⟨o, counts, owned, o.allows_absent _ _⟩

/-- A cleared record without a force is permitted everywhere. -/
theorem Ledger.permits_absent (cleared : r = .absent) : x.Permits i r := by
  by_cases bare : x.Bare i
  · exact .inr ⟨bare, cleared⟩
  · obtain ⟨o, counts, owned⟩ : ∃ o, x.Counts o ∧ x.tables.ownedBy o i = true := by
      simpa only [Ledger.Bare, not_forall, exists_prop, Bool.not_eq_false] using bare
    exact .inl (cleared ▸ Ledger.grants_absent counts owned)

/-- A record that differs from a cleared one has an owner. -/
theorem Ledger.Permits.grants (h : x.Permits i r) (changed : r ≠ .absent) : x.Grants i r.quality :=
  h.resolve_right fun bare => changed bare.2

/-- A port in a new state: in RUN an owner grants what it then allows. -/
theorem Ledger.setPort_grants (run : x.operating = .run) {l : MasterLine} {st : PortState} {o : Owner} {q : Quality}
    (owned : x.tables.ownedBy o i = true) (allows : o.Allows (x.setPort l st).sp (x.setPort l st).cp q) : (x.setPort l st).Grants i q :=
  ⟨o, .inl ((x.setPort_operating l st).trans run), (congrArg (fun t => Tables.ownedBy t o i) (x.setPort_tables l st)).trans owned, allows⟩

/-- A port in a new state: the records of its own area answer for it. -/
theorem Ledger.Permits.setPort (h : x.Permits i r) {l : MasterLine} {st : PortState}
    (own : x.tables.ownedBy (areaOf l) i = true → (areaOf l).Allows x.sp x.cp r.quality →
      (areaOf l).Allows (x.setPort l st).sp (x.setPort l st).cp r.quality) : (x.setPort l st).Permits i r := by
  unfold Ledger.Permits Ledger.Grants Ledger.Bare Ledger.Counts
  rw [Ledger.setPort_operating, Ledger.setPort_tables]
  refine h.imp_left fun ⟨o, counts, owned, allows⟩ => ⟨o, counts, owned, ?_⟩
  by_cases same : o = areaOf l
  · subst same
    exact own owned allows
  · exact Owner.allows_setPort st same allows

end

/-! ### A sound ledger -/

/-- R77, R78: a score and the health that goes with it. -/
def GaugeFits (g : Nat × Health) : Prop := g.1 ≤ 247 ∧ (g.2 = .active → g.1 ≤ 95) ∧ (g.2 = .degraded → 64 ≤ g.1)

/-- R34: every conversion's limits are in order within the signal range. -/
def Tables.ConversionsFit (t : Tables) : Prop :=
  ∀ c, signalRange (t.conversions.get c).lo ∧ signalRange (t.conversions.get c).hi ∧ (t.conversions.get c).lo ≤ (t.conversions.get c).hi

/-- R16: the number of records that carry a force. -/
def forcedRecords (image : Tab SigRec 512) : Nat := image.cells.countP fun r => r.force.isSome

/-- What the obligations say of a ledger. -/
structure Ledger.Sound (x : Ledger) : Prop where
  ranges : ∀ i, (x.image.get i).inRange
  permits : ∀ i, x.Permits i (x.image.get i)
  conversions : x.tables.ConversionsFit
  forces : forcedRecords x.image ≤ 32
  gauges : ∀ l, GaugeFits (x.gauge l)
  queue : x.excess = 0

/-- Tables that have passed the checks give an index one owner at most (R6). -/
theorem Tables.owner_unique {t : Tables} (valid : t.validate = none) {o o' : Owner} {i : SigIx} (h : t.ownedBy o i = true)
    (h' : t.ownedBy o' i = true) : o = o' := by
  obtain ⟨a, ea, fa, la, rfl⟩ := (t.ownedBy_iff o i).mp h
  obtain ⟨b, eb, fb, lb, rfl⟩ := (t.ownedBy_iff o' i).mp h'
  rw [Tables.area_eq_of_mem valid ea eb fa la fb lb]

theorem Ledger.permits_of_run {s : State} (h : QualityInv s) (run : s.operating = .run) (i : SigIx) :
    s.ledger.Permits i (s.image.get i) := by
  by_cases owned : ∃ o, s.tables.ownedBy o i = true
  · obtain ⟨o, owned⟩ := owned
    refine .inl ⟨o, .inl run, owned, ?_⟩
    cases o with
    | spreader => exact h.spreader run i owned
    | cab => exact h.cab run i owned
    | festoon => exact h.festoon run i owned
    | trolley => exact h.trolley run i owned
    | gate => exact h.gate run i owned
    | panel => exact h.panel i owned
  · refine Ledger.permits_absent (h.unassigned run i fun o => ?_)
    exact Bool.eq_false_iff.mpr fun holds => owned ⟨o, holds⟩

theorem Ledger.permits_of_config {s : State} (h : QualityInv s) (config : s.operating = .config) (i : SigIx) :
    s.ledger.Permits i (s.image.get i) := by
  cases owned : s.tables.ownedBy .panel i with
  | true => exact .inl ⟨.panel, .inr rfl, owned, h.panel i owned⟩
  | false => exact Ledger.permits_absent (h.config config i owned)

theorem State.Inv.ledger_sound {s : State} (h : s.Inv) : s.ledger.Sound where
  ranges := h.image.records
  permits i := match operating : s.operating with
    | .run => Ledger.permits_of_run h.quality operating i
    | .config => Ledger.permits_of_config h.quality operating i
  conversions := h.image.conversions
  forces := h.image.forces
  gauges l := s.ledger_gauge l ▸ ⟨h.counters.score l, h.counters.active l, h.counters.degraded l⟩
  queue := Nat.sub_eq_zero_of_le h.counters.events

section
variable {s : State}

theorem Ledger.Sound.imageInv (h : s.ledger.Sound) : ImageInv s := ⟨h.ranges, h.conversions, h.forces⟩

theorem Ledger.Sound.countersInv (h : s.ledger.Sound) : CountersInv s := by
  have gauges : ∀ l, GaugeFits (s.link l).gauge := fun l => s.ledger_gauge l ▸ h.gauges l
  exact ⟨fun l => (gauges l).1, fun l => (gauges l).2.1, fun l => (gauges l).2.2, Nat.sub_eq_zero_iff_le.mp h.queue⟩

/-- In RUN the one owner of an index allows its record's quality. -/
theorem Ledger.Sound.allows (h : s.ledger.Sound) (valid : s.tables.validate = none) {o : Owner} {i : SigIx} (counts : s.ledger.Counts o)
    (owned : s.tables.ownedBy o i = true) : o.Allows s.sp.state s.cp.state (s.image.get i).quality := by
  obtain ⟨o', -, owned', allows⟩ | ⟨bare, -⟩ := h.permits i
  · rwa [Tables.owner_unique valid owned owned']
  · exact absurd owned (Bool.eq_false_iff.mp (bare o counts))

/-- In CONFIG the PANEL is the owner that allows, and the other records are cleared. -/
theorem Ledger.Sound.config (h : s.ledger.Sound) (config : s.operating = .config) (i : SigIx) :
    (s.tables.ownedBy .panel i = true ∧ Owner.panel.Allows s.sp.state s.cp.state (s.image.get i).quality) ∨
    (s.tables.ownedBy .panel i = false ∧ s.image.get i = .absent) := by
  obtain ⟨o, run | rfl, owned, allows⟩ | ⟨bare, cleared⟩ := h.permits i
  · exact Operating.noConfusion (config.symm.trans run)
  · exact .inl ⟨owned, allows⟩
  · exact .inr ⟨bare .panel (.inr rfl), cleared⟩

theorem Ledger.Sound.panel (h : s.ledger.Sound) (valid : s.operating = .run → s.tables.validate = none) {i : SigIx}
    (owned : s.tables.ownedBy .panel i = true) : (s.image.get i).quality = .good ∨ (s.image.get i).quality = .absent := by
  cases operating : s.operating with
  | run => exact h.allows (valid operating) (.inr rfl) owned
  | config =>
    obtain ⟨-, allows⟩ | ⟨other, -⟩ := h.config operating i
    · exact allows
    · exact Bool.noConfusion (owned.symm.trans other)

theorem Ledger.Sound.qualityInv (h : s.ledger.Sound) (valid : s.operating = .run → s.tables.validate = none) : QualityInv s where
  spreader run i owned := h.allows (valid run) (o := .spreader) (.inl run) owned
  cab run i owned := h.allows (valid run) (o := .cab) (.inl run) owned
  festoon run i owned := h.allows (valid run) (o := .festoon) (.inl run) owned
  trolley run i owned := h.allows (valid run) (o := .trolley) (.inl run) owned
  gate run i owned := h.allows (valid run) (o := .gate) (.inl run) owned
  unassigned run i unowned := by
    obtain ⟨o, -, owned, -⟩ | ⟨-, cleared⟩ := h.permits i
    · exact Bool.noConfusion (owned.symm.trans (unowned o))
    · exact cleared
  panel i owned := h.panel valid owned
  config config i other := by
    obtain ⟨owned, -⟩ | ⟨-, cleared⟩ := h.config config i
    · exact Bool.noConfusion (owned.symm.trans other)
    · exact cleared

end

/-! ### Records in range, forces that go (R1, R16, R17) -/

section
variable {r r' : SigRec}

theorem signalRange_zero : signalRange 0 := ⟨by decide, by decide⟩

theorem SigRec.inRange_absent : SigRec.absent.inRange := ⟨signalRange_zero, le_rfl, nofun⟩

theorem SigRec.inRange.marked (h : r.inRange) (q : Quality) : SigRec.inRange { r with quality := q } := h

theorem SigRec.inRange.emptied (h : r.inRange) : r.emptied.inRange := ⟨signalRange_zero, le_rfl, h.2.2⟩

theorem SigRec.inRange.released (h : r.inRange) : SigRec.inRange { r with force := none } := ⟨h.1, h.2.1, nofun⟩

theorem SigRec.inRange.aged (h : r.inRange) : r.aged.inRange := ⟨h.1, Nat.min_le_right _ _, h.2.2⟩

theorem SigRec.inRange.written (h : r.inRange) {v : Int} (range : signalRange v) (q : Quality) : (r.written v q).inRange :=
  ⟨range, Nat.zero_le _, h.2.2⟩

theorem SigRec.inRange.forcedTo (h : r.inRange) {v : Int} (range : signalRange v) : (r.forcedTo v).inRange :=
  ⟨h.1, h.2.1, fun _ same => Option.some.inj same ▸ range⟩

/-- A record within its ranges, with the force part of another or with none. -/
structure SigRec.Follows (r r' : SigRec) : Prop where
  range : r'.inRange
  force : r'.force = r.force ∨ r'.force = none

theorem SigRec.Follows.refl (h : r.inRange) : r.Follows r := ⟨h, .inl rfl⟩
theorem SigRec.Follows.marked (h : r.inRange) (q : Quality) : r.Follows { r with quality := q } := ⟨h.marked q, .inl rfl⟩
theorem SigRec.Follows.emptied (h : r.inRange) : r.Follows r.emptied := ⟨h.emptied, .inl rfl⟩

end

/-- Where forces only go, no more records carry one. -/
theorem forcedRecords_le {image image' : Tab SigRec 512}
    (forces : ∀ i, (image'.get i).force = (image.get i).force ∨ (image'.get i).force = none) :
    forcedRecords image' ≤ forcedRecords image := by
  unfold forcedRecords
  rw [Tab.cells_eq, Tab.cells_eq, List.countP_map, List.countP_map]
  refine List.countP_mono_left fun i _ forced => ?_
  simp only [Function.comp_apply] at forced ⊢
  obtain same | gone := forces i
  · rwa [← same]
  · rw [gone] at forced
    exact Bool.noConfusion forced

/-! ### Changes of a sound ledger -/

section
variable {x : Ledger}

/-- A ledger of the same tables, gauges and queue whose records follow those of a sound one. -/
theorem Ledger.Sound.of_records (h : x.Sound) {y : Ledger} (tables : y.tables = x.tables) (gauge : y.gauge = x.gauge)
    (excess : y.excess = x.excess) (follows : ∀ i, (x.image.get i).Follows (y.image.get i))
    (permits : ∀ i, y.Permits i (y.image.get i)) : y.Sound where
  ranges i := (follows i).range
  permits := permits
  conversions := tables ▸ h.conversions
  forces := (forcedRecords_le fun i => (follows i).force).trans h.forces
  gauges := gauge ▸ h.gauges
  queue := excess.trans h.queue

/-- Records change, each as an owner of its index allows. -/
theorem Ledger.Sound.setImage (h : x.Sound) {image : Tab SigRec 512} (records : ∀ i, image.get i = x.image.get i ∨
    (x.Grants i (image.get i).quality ∧ (x.image.get i).Follows (image.get i))) : Ledger.Sound { x with image := image } := by
  refine h.of_records rfl rfl rfl (fun i => ?_) fun i => ?_
  · obtain same | ⟨-, follows⟩ := records i
    · rw [same]
      exact .refl (h.ranges i)
    · exact follows
  · obtain same | ⟨grants, -⟩ := records i
    · exact (same ▸ h.permits i : x.Permits i (image.get i))
    · exact .inl grants

/-- A port changes its state, and records beside it. -/
theorem Ledger.Sound.setPort (h : x.Sound) {l : MasterLine} {st : PortState} {image : Tab SigRec 512}
    (follows : ∀ i, (x.image.get i).Follows (image.get i)) (permits : ∀ i, (x.setPort l st).Permits i (image.get i)) :
    Ledger.Sound { x.setPort l st with image := image } := by
  cases l <;> exact h.of_records rfl rfl rfl follows permits

/-- A port changes its state, and no record of its area minds. -/
theorem Ledger.Sound.setPort_of_allows (h : x.Sound) {l : MasterLine} {st : PortState}
    (own : ∀ q, (areaOf l).Allows x.sp x.cp q → (areaOf l).Allows (x.setPort l st).sp (x.setPort l st).cp q) :
    (x.setPort l st).Sound := by
  have image : x.setPort l st = { x.setPort l st with image := x.image } := by cases l <;> rfl
  rw [image]
  exact h.setPort (fun i => .refl (h.ranges i)) fun i => (h.permits i).setPort fun _ => own _

theorem Ledger.Sound.setGauge (h : x.Sound) (l : Line) {g : Nat × Health} (fits : GaugeFits g) : (x.setGauge l g).Sound := by
  have permits : ∀ i, (x.setGauge l g).Permits i ((x.setGauge l g).image.get i) := by cases l <;> exact h.permits
  refine ⟨?_, permits, ?_, ?_, fun m => ?_, ?_⟩
  · rw [x.setGauge_image]; exact h.ranges
  · rw [x.setGauge_tables]; exact h.conversions
  · rw [x.setGauge_image]; exact h.forces
  · rw [x.setGauge_gauge]
    split
    · exact fits
    · exact h.gauges m
  · rw [x.setGauge_excess]; exact h.queue

end

end Sys2Proof.Machine
end

section
namespace Sys2Proof.Machine

/-! ### Changes of records within one event -/

/-- From a ledger on, records were changed as their owners allow, and nothing else. -/
structure Ledger.Rewritten (x y : Ledger) : Prop where
  sound : y.Sound
  frame : y = { x with image := y.image }

theorem Ledger.Sound.rewritten {x : Ledger} (h : x.Sound) : x.Rewritten x := ⟨h, rfl⟩

section
variable {x : Ledger} {w : Work} (h : x.Rewritten w.st.ledger)
include h

theorem Ledger.Rewritten.tables : w.st.tables = x.tables := congrArg Ledger.tables h.frame

/-- What is no change to the ledger. -/
theorem Ledger.Rewritten.on {f : State → State} (same : (f w.st).ledger = w.st.ledger) : x.Rewritten (w.on f).st.ledger := by
  rwa [Work.on_st, same]

/-- A change of the image whose new records their owners allow. -/
theorem Ledger.Rewritten.image {w' : Work} (frame : w'.st = { w.st with image := w'.st.image })
    (records : ∀ i, w'.st.image.get i = w.st.image.get i ∨
      (x.Grants i (w'.st.image.get i).quality ∧ (w.st.image.get i).Follows (w'.st.image.get i))) : x.Rewritten w'.st.ledger := by
  have grants : ∀ i q, w.st.ledger.Grants i q ↔ x.Grants i q := fun i q => by rw [h.frame]; exact Iff.rfl
  have ledger : w'.st.ledger = { w.st.ledger with image := w'.st.image } := congrArg State.ledger frame
  refine ⟨?_, ?_⟩
  · rw [ledger]
    exact h.sound.setImage fun i => (records i).imp_right fun ⟨granted, follows⟩ => ⟨(grants i _).mpr granted, follows⟩
  · rw [ledger]
    exact congrArg (fun y : Ledger => { y with image := w'.st.image }) h.frame

theorem Ledger.Rewritten.changeAt {i : SigIx} {f : SigRec → SigRec} (granted : x.Grants i (f (w.st.image.get i)).quality)
    (follows : (w.st.image.get i).Follows (f (w.st.image.get i))) : x.Rewritten (w.changeAt i f).st.ledger := by
  refine h.image (w.changeAt_frame i f) fun j => ?_
  rw [Work.changeAt_image]
  split
  · next same =>
    subst same
    exact .inr ⟨granted, follows⟩
  · exact .inl rfl

/-- R10, R14, R15: a source write. -/
theorem Ledger.Rewritten.written {i : SigIx} {v : Int} {q : Quality} (range : signalRange v) (granted : x.Grants i q) :
    x.Rewritten (w.changeAt i (SigRec.written v q)).st.ledger :=
  h.changeAt granted ⟨(h.sound.ranges i).written range q, .inl rfl⟩

/-- R28, R136: a change of quality alone. -/
theorem Ledger.Rewritten.marked {i : SigIx} {q : Quality} (granted : x.Grants i q) :
    x.Rewritten (w.changeAt i (SigRec.marked q)).st.ledger :=
  h.changeAt granted ⟨(h.sound.ranges i).marked q, .inl rfl⟩

/-- R11: signals go STALE. -/
theorem Ledger.Rewritten.stale {sigs : List SigIx} (granted : ∀ i ∈ sigs, x.Grants i .stale) :
    x.Rewritten (w.stale sigs).st.ledger := by
  refine h.image rfl fun i => ?_
  rw [Work.stale_image]
  split
  · next named =>
    simp only [Bool.and_eq_true, List.contains_iff_mem] at named
    exact .inr ⟨granted i named.2, (h.sound.ranges i).marked _, .inl rfl⟩
  · exact .inl rfl

end

/-- A list of changes, each of which their owners allow. -/
theorem Ledger.Rewritten.foldl {x : Ledger} {β : Type} {change : Work → β → Work} (l : List β)
    (each : ∀ b ∈ l, ∀ w, x.Rewritten w.st.ledger → x.Rewritten (change w b).st.ledger) {w : Work} (h : x.Rewritten w.st.ledger) :
    x.Rewritten (l.foldl change w).st.ledger := by
  induction l generalizing w with
  | nil => exact h
  | cons b l ih => exact ih (fun b' member => each b' (.tail _ member)) (each b (.head _) w h)

/-! ### A payload applied (R27 to R29) -/

/-- R28, R38: what an IN placement writes is GOOD or CLAMPED. -/
theorem Tables.inValue_quality (t : Tables) (p : Placement) (payload : Nat) :
    (t.inValue p payload).2 = .good ∨ (t.inValue p payload).2 = .clamped := by
  unfold Tables.inValue
  cases p.conversion with
  | none => dsimp only; split <;> simp
  | some c => dsimp only; split <;> simp

section
variable {x : Ledger} {w : Work}

/-- R28, R29: one placement of a payload, whose field was received or whose signal may be SUSPECT(SHORT). -/
theorem Ledger.Rewritten.applyOne (h : x.Rewritten w.st.ledger) {payload len : Nat} {p : Placement}
    (good : x.Grants p.addr.base .good) (clamped : x.Grants p.addr.base .clamped)
    (short : p.offset + p.width ≤ 8 * len ∨ x.Grants p.addr.base (.suspect .short)) :
    x.Rewritten (w.applyOne payload len p).st.ledger := by
  unfold Work.applyOne
  split
  · refine h.written (Tables.inValue_range _ p payload fun c _ => h.sound.conversions c) ?_
    obtain quality | quality := w.st.tables.inValue_quality p payload <;> rw [quality]
    · exact good
    · exact clamped
  · next beyond => exact h.marked (short.resolve_left beyond)

/-- R27: a payload applied to a run. -/
theorem Ledger.Rewritten.applyRun (h : x.Rewritten w.st.ledger) {run : List Placement} {bytes : List Byte}
    (granted : ∀ p ∈ run, p.direction = .inbound → x.Grants p.addr.base .good ∧ x.Grants p.addr.base .clamped ∧
      (p.offset + p.width ≤ 8 * bytes.length ∨ x.Grants p.addr.base (.suspect .short))) :
    x.Rewritten (w.applyRun run bytes).st.ledger := by
  refine Ledger.Rewritten.foldl _ (fun p member w h => ?_) h
  obtain ⟨member, inbound⟩ := List.mem_filter.mp member
  obtain ⟨good, clamped, short⟩ := granted p member (beq_iff_eq.mp inbound)
  exact h.applyOne good clamped short

end

/-! ### Whose records the placements write (R24, R142) -/

section
variable {t : Tables} (valid : t.validate = none)
include valid

/-- R24: an IN placement of an examined slot writes a record of its set's owner, from within the slot's payload. -/
theorem Tables.placed_owned {x : Examined} (hx : t.Places x) {p : Placement} (member : p ∈ t.placed x) (inbound : p.direction = .inbound) :
    t.ownedBy x.set.owner p.addr.base = true ∧ p.offset + p.width ≤ 8 * x.length := by
  obtain ⟨j, names⟩ := (t.mem_placed x p).mp member
  obtain ⟨-, -, inside⟩ := Tables.placement_fits valid hx names
  obtain ⟨-, -, owned⟩ := Tables.placement_writes valid hx names inbound
  exact ⟨(t.ownedBy_assigns _ _).mpr owned, inside⟩

theorem Tables.festoonRun_owned {k : SlotIx} (enabled : (t.festoonSlots.get k).enabled = true) {p : Placement}
    (member : p ∈ t.festoonRun (t.festoonSlots.get k)) (inbound : p.direction = .inbound) :
    t.ownedBy .festoon p.addr.base = true :=
  (Tables.placed_owned valid (.inl (.inr (.inr ⟨k, enabled, rfl⟩))) member inbound).1

end

/-- R24: an enabled slot of an active set writes records of its port's area. -/
theorem State.slotRun_owned {s : State} (valid : s.tables.validate = none)
    (profiles : ∀ p, s.attached = some p → (s.tables.profiles.get p).enabled = true) {l : MasterLine} {k : SlotIx} {e : MasterIx}
    (entry : s.activeEntry l k = some e) (enabled : (s.slotRec e).enabled = true) {p : Placement}
    (member : p ∈ s.tables.slotRun (s.slotRec e)) (inbound : p.direction = .inbound) : s.tables.ownedBy (areaOf l) p.addr.base = true := by
  cases l with
  | sp =>
    obtain ⟨q, attached, rfl⟩ := Option.map_eq_some_iff.mp entry
    exact (Tables.placed_owned valid (.inl (.inl ⟨q, k, profiles q attached, enabled, rfl⟩)) member inbound).1
  | cp =>
    obtain rfl := State.eq_cabEntry entry
    exact (Tables.placed_owned valid (.inl (.inr (.inl ⟨k, enabled, rfl⟩))) member inbound).1

/-- The written signals of a run are the records of its IN placements. -/
theorem mem_writtenSignals {run : List Placement} {i : SigIx} :
    i ∈ writtenSignals run ↔ ∃ p ∈ run, p.direction = .inbound ∧ p.addr.base = i := by
  simp only [writtenSignals, List.mem_map, List.mem_filter, beq_iff_eq, and_assoc]

/-! ### Scores (R77, R78) -/

/-- R77, R78: the gauge of a line after a good frame. -/
def goodGauge (g : Nat × Health) : Nat × Health := (g.1 - 1, if g.1 - 1 ≤ 63 then .active else g.2)

/-- R77, R78: the gauge of a line after a frame error without overflow. -/
def errorGauge (g : Nat × Health) : Nat × Health := (g.1 + 8, if 96 ≤ g.1 + 8 then .degraded else g.2)

theorem GaugeFits.good {g : Nat × Health} (h : GaugeFits g) : GaugeFits (goodGauge g) := by
  obtain ⟨n, health⟩ := g
  obtain ⟨most, active, degraded⟩ := h
  refine ⟨?_, ?_⟩
  · exact (Nat.sub_le _ _).trans most
  · unfold goodGauge
    split
    · next low => exact ⟨fun _ => low.trans (by decide), nofun⟩
    · next high => exact ⟨fun same => (Nat.sub_le _ _).trans (active same), fun _ => by dsimp only at high ⊢; omega⟩

theorem GaugeFits.error {g : Nat × Health} (h : GaugeFits g) (below : g.1 + 8 ≤ 247) : GaugeFits (errorGauge g) := by
  obtain ⟨n, health⟩ := g
  obtain ⟨-, -, degraded⟩ := h
  refine ⟨below, ?_⟩
  unfold errorGauge
  split
  · next high => exact ⟨nofun, fun _ => le_trans (by decide) high⟩
  · next low => exact ⟨fun _ => by dsimp only at low ⊢; omega, fun same => Nat.le_add_right_of_le (degraded same)⟩

/-- R77, R78: a line at a new start. -/
theorem gaugeFits_fresh : GaugeFits (0, .active) := ⟨by decide, fun _ => by decide, nofun⟩

section
variable (s : State) (l : Line)

theorem State.ledger_scoreGood : (s.scoreGood l).ledger = s.ledger.setGauge l (goodGauge (s.ledger.gauge l)) := by
  rw [s.ledger_gauge]
  unfold goodGauge
  by_cases low : (s.link l).gauge.1 - 1 ≤ 63
  · rw [if_pos low]
    unfold State.scoreGood
    simp only
    split
    · rw [if_pos (show (s.link l).score - 1 ≤ Config.recoveredScore from low), State.ledger_raise, State.ledger_setLink]
      rfl
    · next active =>
      rw [State.ledger_setLink]
      exact congrArg (fun health => s.ledger.setGauge l (_, health)) active
  · rw [if_neg low]
    unfold State.scoreGood
    simp only
    split
    · rw [if_neg (show ¬ (s.link l).score - 1 ≤ Config.recoveredScore from low), State.ledger_setLink]
      rfl
    · rw [State.ledger_setLink]
      rfl

theorem State.ledger_scoreError : (s.scoreError l).ledger = s.ledger.setGauge l (errorGauge (s.ledger.gauge l)) := by
  rw [s.ledger_gauge]
  unfold errorGauge
  by_cases high : 96 ≤ (s.link l).gauge.1 + 8
  · rw [if_pos high]
    unfold State.scoreError
    simp only
    split
    · rw [if_pos (show Config.degradedScore ≤ (s.link l).score + 8 from high), State.ledger_raise, State.ledger_setLink]
      rfl
    · next degraded =>
      rw [State.ledger_setLink]
      exact congrArg (fun health => s.ledger.setGauge l (_, health)) degraded
  · rw [if_neg high]
    unfold State.scoreError
    simp only
    split
    · rw [if_neg (show ¬ Config.degradedScore ≤ (s.link l).score + 8 from high), State.ledger_setLink]
      rfl
    · rw [State.ledger_setLink]
      rfl

variable {s l}

theorem State.sound_judged_scoreGood (h : s.ledger.Sound) : ((s.judged l).scoreGood l).ledger.Sound := by
  rw [State.ledger_scoreGood, State.ledger_judged]
  exact h.setGauge l (h.gauges l).good

theorem State.sound_judged_scoreError (h : s.ledger.Sound) (below : (s.link l).score + 8 < 248) :
    ((s.judged l).scoreError l).ledger.Sound := by
  rw [State.ledger_scoreError, State.ledger_judged]
  refine h.setGauge l ((h.gauges l).error ?_)
  rw [State.ledger_gauge]
  exact Nat.le_of_lt_succ below

end

/-! ### The operating states (R160, R161, R163) -/

section
variable {s : State}

theorem State.ledger_toConfig (s : State) : s.toConfig.ledger =
    { s.ledger with operating := .config, image := s.toConfig.image, sp := .off, cp := .off } := by
  conv_lhs => rw [s.toConfig_eq]
  rfl

/-- R161, R18: CONFIG keeps the PANEL records, without their force parts. -/
theorem State.sound_toConfig (h : s.ledger.Sound) (valid : s.operating = .run → s.tables.validate = none) : s.toConfig.ledger.Sound := by
  rw [s.ledger_toConfig]
  refine h.of_records rfl rfl rfl (fun i => ?_) fun i => ?_ <;> dsimp only <;> rw [s.toConfig_image] <;> split
  · exact ⟨(h.ranges i).released, .inr rfl⟩
  · exact ⟨SigRec.inRange_absent, .inr rfl⟩
  · next owned => exact .inl ⟨.panel, .inr rfl, owned, h.panel valid owned⟩
  · exact Ledger.permits_absent rfl

theorem State.ledger_toRun (s : State) : ∃ sp cp, s.toRun.ledger =
    { s.ledger with operating := .run, image := s.clearImage.image, sp := sp, cp := cp } := by
  have base : s.runBase.ledger = { s.ledger with operating := .run, image := s.clearImage.image, sp := .off, cp := .off } := rfl
  have cab : ∃ cp, s.runBase.startCab.ledger = { s.runBase.ledger with cp := cp } := by
    unfold State.startCab
    split
    · exact ⟨_, State.ledger_enterCycling _ .cp⟩
    · exact ⟨_, rfl⟩
  obtain ⟨cp, cab⟩ := cab
  rw [s.toRun_eq]
  unfold State.startSpreader
  split
  · exact ⟨_, cp, by rw [State.ledger_enterSearch, cab, base]; rfl⟩
  · exact ⟨_, cp, by rw [cab, base]⟩

/-- R160, R18: RUN starts from CONFIG with the PANEL records alone. -/
theorem State.sound_toRun (h : s.ledger.Sound) (config : s.operating = .config) : s.toRun.ledger.Sound := by
  obtain ⟨sp, cp, ledger⟩ := s.ledger_toRun
  rw [ledger]
  refine h.of_records rfl rfl rfl (fun i => ?_) fun i => ?_ <;> dsimp only <;> rw [s.clearImage_image] <;> split
  · exact .refl (h.ranges i)
  · exact ⟨(h.ranges i).emptied, .inl rfl⟩
  · next owned => exact .inl ⟨.panel, .inr rfl, owned, h.panel (fun run => Operating.noConfusion (config.symm.trans run)) owned⟩
  · next other =>
    obtain ⟨owned, -⟩ | ⟨-, cleared⟩ := h.config config i
    · exact absurd owned other
    · exact Ledger.permits_absent (by rw [cleared]; rfl)

theorem State.sound_restartCounters (h : s.ledger.Sound) : s.restartCounters.ledger.Sound := by
  have gauged := ((h.setGauge .sp gaugeFits_fresh).setGauge .cp gaugeFits_fresh).setGauge .fp gaugeFits_fresh
  exact ⟨gauged.ranges, gauged.permits, gauged.conversions, gauged.forces, gauged.gauges, rfl⟩

/-- R163: the warm restart. -/
theorem State.sound_warmRestart (h : s.ledger.Sound) (valid : s.operating = .run → s.tables.validate = none) :
    s.warmRestart.ledger.Sound := by
  have config := State.sound_toConfig (State.sound_restartCounters h) valid
  unfold State.warmRestart
  simp only
  split
  · exact State.sound_toRun config rfl
  · exact config

theorem State.sound_powerOn (strap : BitVec 5) (q : List Instr) : (State.powerOn strap q).ledger.Sound where
  ranges i := by rw [show (State.powerOn strap q).ledger.image.get i = .absent from Tab.get_fill _ i]; exact SigRec.inRange_absent
  permits i := Ledger.permits_absent (Tab.get_fill _ i)
  conversions c := by
    rw [show (State.powerOn strap q).ledger.tables.conversions.get c = _ from Tab.get_fill _ c]
    exact ⟨signalRange_zero, signalRange_zero, le_rfl⟩
  forces := by
    have zero : forcedRecords (.fill 512 .absent) = 0 := by
      unfold forcedRecords
      rw [Tab.cells_eq, List.countP_map]
      exact List.countP_eq_zero.mpr fun i _ => by simp [SigRec.absent]
    exact zero.le.trans (Nat.zero_le _)
  gauges l := by cases l <;> exact gaugeFits_fresh
  queue := rfl

/-! ### Receptions on the festoon line (R77, R81, R127, R162) -/

theorem State.sound_beginReception (h : s.ledger.Sound) (valid : s.operating = .run → s.tables.validate = none) :
    s.beginReception.ledger.Sound := by
  by_cases rested : s.fp.link.phase = .rested
  · cases pending : s.fp.restartPending with
    | false =>
      rw [State.beginReception_of_rested rested pending]
      exact h
    | true =>
      rw [State.beginReception_of_restart rested pending, State.ledger_setPhase]
      exact State.sound_warmRestart h valid
  · rwa [State.beginReception_of_not_rested rested]

theorem State.sound_festoonGood (h : s.ledger.Sound) (valid : s.operating = .run → s.tables.validate = none) :
    s.festoonGood.ledger.Sound := State.sound_judged_scoreGood (State.sound_beginReception h valid)

/-- R81: the Festoon Port detached leaves its records alone. -/
theorem State.ledger_detachFestoon (s : State) : s.detachFestoon.ledger = s.ledger.setGauge .fp (0, .active) :=
  State.ledger_raise _ _

/-- R81: and a port that listens again starts its score anew. -/
theorem State.ledger_relisten (s : State) : s.relisten.ledger = s.ledger.setGauge .fp (0, .active) := rfl

theorem State.sound_festoonError (h : s.ledger.Sound) (valid : s.operating = .run → s.tables.validate = none) :
    s.festoonError.ledger.Sound := by
  have begun := State.sound_beginReception h valid
  unfold State.festoonError
  simp only
  split
  · rw [State.ledger_detachFestoon, State.ledger_judged]
    exact begun.setGauge .fp gaugeFits_fresh
  · next below =>
    refine State.sound_judged_scoreError begun (Nat.lt_of_not_le fun overflows => below ?_)
    exact (State.overflows_judged .fp _).mpr overflows

end

end Sys2Proof.Machine
end

section
namespace Sys2Proof.Machine

/-! ### The part in RUN -/

/-- The part in RUN: its ledger is sound, its tables have passed the checks, and its engine is fit. -/
structure State.Runs (s : State) : Prop where
  sound : s.ledger.Sound
  run : s.operating = .run
  valid : s.tables.validate = none
  engine : s.engine.Fit

section
variable {s : State} (h : s.Runs)
include h

theorem State.Runs.of_same {t : State} (sound : t.ledger.Sound) (hub : t.hub = s.hub) (engine : t.engine = s.engine) : t.Runs where
  sound := sound
  run := (congrArg Hub.operating hub).trans h.run
  valid := by
    have tables : t.tables = s.tables := congrArg Hub.tables hub
    rw [tables]
    exact h.valid
  engine := by
    rw [engine]
    exact h.engine

theorem State.Runs.judged_scoreGood (l : MasterLine) : ((s.judged (masterLine l)).scoreGood (masterLine l)).Runs :=
  h.of_same (State.sound_judged_scoreGood h.sound) (s.hub_judged_scoreGood l) (s.engine_judged_scoreGood _)

theorem State.Runs.judged_scoreError {l : MasterLine} (below : (s.port l).link.score + 8 < 248) :
    ((s.judged (masterLine l)).scoreError (masterLine l)).Runs :=
  h.of_same (State.sound_judged_scoreError h.sound (by rwa [State.link_masterLine])) (s.hub_judged_scoreError l)
    (s.engine_judged_scoreError _)

/-- R24: the signals that an enabled slot of a set writes are of its port's area. -/
theorem State.Runs.signal_owned {l : MasterLine} {k : SlotIx} {e : MasterIx} (entry : s.activeEntry l k = some e)
    (enabled : (s.slotRec e).enabled = true) {i : SigIx} (named : i ∈ writtenSignals (s.tables.slotRun (s.slotRec e))) :
    s.tables.ownedBy (areaOf l) i = true := by
  obtain ⟨p, member, inbound, rfl⟩ := mem_writtenSignals.mp named
  exact State.slotRun_owned h.valid h.engine.profile entry enabled member inbound

/-- R10, R11: what a set of a CYCLING port leaves in the records of its area. -/
theorem State.Runs.grants_of_cycling {l : MasterLine} (cycling : (s.port l).state = .cycling) {i : SigIx}
    (owned : s.tables.ownedBy (areaOf l) i = true) {q : Quality} (other : q ≠ .suspect .opened) : s.ledger.Grants i q :=
  ⟨areaOf l, .inl h.run, owned, areaOf_allows ((s.ledger_port l).trans cycling) other⟩

end

/-! ### Misses (R90, R92, R93, R113) -/

theorem State.ledger_missed (s : State) (l : MasterLine) (k : SlotIx) (e : MasterIx) : (s.missed l k e).ledger = s.ledger :=
  s.ledger_setPort_of_same (p := { s.port l with turn := .missed k }) rfl rfl

/-- R113: the records of the SPREADER areas are cleared as the port leaves its set, and the others are as they were. -/
theorem State.Runs.clearing {s : State} (h : s.Runs) {st : PortState} {image : Tab SigRec 512} (records : ∀ i, image.get i =
    if s.tables.ownedBy .spreader i then (s.image.get i).emptied else s.image.get i) :
    Ledger.Sound { s.ledger.setPort .sp st with image := image } := by
  refine h.sound.setPort (fun i => ?_) fun i => ?_ <;> rw [records i] <;> split
  · exact .emptied (h.sound.ranges i)
  · exact .refl (h.sound.ranges i)
  · next owned => exact .inl (Ledger.setPort_grants (x := s.ledger) h.run owned (Owner.allows_absent _ _ _))
  · next other => exact (h.sound.permits i).setPort fun owned => absurd owned other

theorem MissTaken.sound {s t : State} {l : MasterLine} {k : SlotIx} {e : MasterIx} (h : s.Runs) (turn : (s.port l).turn = .window k)
    (entry : s.activeEntry l k = some e) (miss : MissTaken l k e s t) : t.ledger.Sound := by
  have cycles : s.Cycles l := State.cycles_of_turn h.engine (by rw [turn]; exact nofun)
  obtain ⟨e', entry', enabled, -⟩ := cycles.inSlot (k := k) (by rw [turn]; rfl)
  obtain rfl : e = e' := Option.some.inj (entry.symm.trans entry')
  by_cases stays : (missedSlot (s.slotRec e).missLimit (s.masterRt.get e)).status ≠ .lost ∨ (s.masterRt.get e).status = .lost
  · rw [miss.counted stays]
    exact s.ledger_missed l k e ▸ h.sound
  obtain ⟨lost, fresh⟩ := not_or.mp stays
  rw [not_not] at lost
  by_cases remains : l = .cp ∨ s.attached = none ∨ (∃ k' e', s.activeEntry .sp k' = some e' ∧ e' ≠ e ∧
      (s.slotRec e').enabled = true ∧ (s.slotRec e').direction = .inbound ∧ (s.masterRt.get e').status ≠ .lost)
  · rw [miss.lost lost fresh remains, Work.ledger_close]
    have base : s.ledger.Rewritten ((s.missed l k e).raise (.slotLost (masterLine l) k)).ledger := by
      rw [State.ledger_raise, State.ledger_missed]
      exact h.sound.rewritten
    exact (Ledger.Rewritten.stale (w := State.work _) base fun i named =>
      h.grants_of_cycling cycles.cycling (h.signal_owned entry enabled named) nofun).sound
  · rw [not_or, not_or] at remains
    obtain ⟨spreader, attached, none⟩ := remains
    obtain rfl : l = .sp := by
      cases l with
      | sp => rfl
      | cp => exact absurd rfl spreader
    obtain ⟨p, attached⟩ := Option.ne_none_iff_exists'.mp attached
    obtain ⟨-, records, ends⟩ := miss.ended lost fresh rfl p attached fun k' e' entry other enabled direction => by
      by_contra alive
      exact none ⟨k', e', entry, other, enabled, direction, alive⟩
    have ledger : t.ledger = { s.ledger.setPort .sp .search with image := t.image } :=
      ends.ledger.trans (Ledger.ext rfl rfl rfl rfl rfl rfl rfl rfl
        ((State.excess_raise _ _).trans (State.excess_raise _ _)))
    rw [ledger]
    refine h.clearing fun i => (records i).trans ?_
    split
    · rfl
    · next other =>
      refine if_neg fun named => other (h.signal_owned entry enabled ?_)
      exact List.contains_iff_mem.mp (Bool.and_eq_true_iff.mp named).2

theorem State.Runs.windowOver {s : State} (h : s.Runs) (l : MasterLine) (ended : Bool) :
    (s.work.windowOver l ended).close.ledger.Sound := by
  cases ended with
  | false =>
    rw [Work.ledger_close]
    exact h.sound
  | true =>
    by_cases window : ∃ k, (s.port l).turn = .window k
    · obtain ⟨k, turn⟩ := window
      obtain ⟨e, entry, -⟩ := (State.cycles_of_turn h.engine (by rw [turn]; exact nofun)).inSlot (k := k) (by rw [turn]; rfl)
      exact (State.windowOver_of_window turn entry).sound h turn entry
    · rw [State.windowOver_of_no_window fun k turn => window ⟨k, turn⟩]
      split <;> exact h.sound

theorem State.Runs.windowExpiry {s : State} (h : s.Runs) {l : MasterLine} (waiting : (s.waitingFor l).isSome = true) :
    (s.work.windowExpiry l).close.ledger.Sound := by
  obtain ⟨k, waiting⟩ := Option.isSome_iff_exists.mp waiting
  obtain ⟨cycling, turn⟩ := State.waitingFor_eq_some.mp waiting
  obtain ⟨e, entry, -⟩ := State.Cycles.inSlot (k := k) ⟨h.engine, cycling⟩ (by rw [turn]; rfl)
  rw [Work.windowExpiry_eq waiting]
  exact (State.miss_taken entry).sound h turn entry

/-! ### The detachment of a master port (R79, R114) -/

theorem Work.Detaches.ledger {l : MasterLine} {dropped : Option ProfileIx} {s : State} {w : Work} (detaches : w.Detaches l dropped s) :
    w.st.ledger = Ledger.setGauge { s.ledger.setPort l .detached with image := w.st.image } (masterLine l) (0, .active) := by
  rw [detaches.frame]
  cases l <;> exact Ledger.ext rfl rfl rfl rfl rfl rfl rfl rfl (s.excess_raiseAll _)

theorem SigRec.Follows.staleIf {r : SigRec} (h : r.inRange) (named : Bool) : r.Follows (r.staleIf named) := by
  unfold SigRec.staleIf
  split
  · exact .marked h _
  · exact .refl h

/-- R79: what a port's detachment makes of the records, each permitted in DETACHED. -/
theorem Work.Detaches.sound {l : MasterLine} {dropped : Option ProfileIx} {s : State} {w : Work} (h : s.Runs)
    (detaches : w.Detaches l dropped s) (permits : ∀ i, (dropped.isSome && s.tables.ownedBy .spreader i) = false →
      (s.ledger.setPort l .detached).Permits i ((s.image.get i).staleIf
        ((s.fallen l).any fun ke => (writtenSignals (s.tables.slotRun (s.slotRec ke.2))).contains i))) : w.st.ledger.Sound := by
  rw [detaches.ledger]
  refine Ledger.Sound.setGauge (h.sound.setPort (fun i => ?_) fun i => ?_) _ gaugeFits_fresh <;> rw [detaches.image i] <;> split
  · exact .emptied (h.sound.ranges i)
  · exact .staleIf (h.sound.ranges i) _
  · next owned =>
    exact .inl (Ledger.setPort_grants (x := s.ledger) h.run (Bool.and_eq_true_iff.mp owned).2 (Owner.allows_absent _ _ _))
  · next kept => exact permits i (Bool.eq_false_iff.mpr kept)

section
variable {s : State} (h : s.Runs) {l : MasterLine} {i : SigIx}
include h

/-- R79: a signal of a slot that falls is of the port's area. -/
theorem State.Runs.fallen_owned
    (named : (s.fallen l).any (fun ke => (writtenSignals (s.tables.slotRun (s.slotRec ke.2))).contains i) = true) :
    s.tables.ownedBy (areaOf l) i = true ∧ ∃ k e, s.activeEntry l k = some e := by
  obtain ⟨ke, member, named⟩ := List.any_eq_true.mp named
  obtain ⟨member, falls⟩ := List.mem_filter.mp member
  simp only [State.falls, Bool.and_eq_true, beq_iff_eq] at falls
  have entry := State.mem_activeSet member
  exact ⟨h.signal_owned entry falls.1.1 (List.contains_iff_mem.mp named), ke.1, ke.2, entry⟩

/-- R11: the records of the CAB areas as their port enters DETACHED. -/
theorem State.Runs.cab_permits : (s.ledger.setPort .cp .detached).Permits i ((s.image.get i).staleIf
    ((s.fallen .cp).any fun ke => (writtenSignals (s.tables.slotRun (s.slotRec ke.2))).contains i)) := by
  unfold SigRec.staleIf
  split
  · next stale =>
    obtain ⟨owned, -⟩ := h.fallen_owned (Bool.and_eq_true_iff.mp stale).2
    exact .inl (Ledger.setPort_grants (x := s.ledger) h.run owned ⟨nofun, nofun⟩)
  · exact (h.sound.permits i).setPort fun _ ⟨other, _⟩ => ⟨other, nofun⟩

/-- R113, R114: a record that no dropped attachment clears as the Spreader Port enters DETACHED: of another area, or cleared already. -/
theorem State.Runs.spreader_permits (searches : s.attached = none → s.sp.state = .search)
    (kept : (s.attached.isSome && s.tables.ownedBy .spreader i) = false) :
    (s.ledger.setPort .sp .detached).Permits i ((s.image.get i).staleIf
      ((s.fallen .sp).any fun ke => (writtenSignals (s.tables.slotRun (s.slotRec ke.2))).contains i)) := by
  unfold SigRec.staleIf
  split
  · next stale =>
    obtain ⟨owned, k, e, entry⟩ := h.fallen_owned (Bool.and_eq_true_iff.mp stale).2
    obtain ⟨p, attached, -⟩ := Option.map_eq_some_iff.mp entry
    rw [attached, show s.tables.ownedBy .spreader i = true from owned] at kept
    exact Bool.noConfusion kept
  · refine (h.sound.permits i).setPort fun owned ⟨_, _, out⟩ => ?_
    cases attached : s.attached with
    | none =>
      have search : s.ledger.sp = .search := searches attached
      rw [out (search ▸ nofun) (search ▸ nofun)]
      exact Owner.allows_absent _ _ _
    | some p =>
      rw [attached, show s.tables.ownedBy .spreader i = true from owned] at kept
      exact Bool.noConfusion kept

end

theorem State.Runs.masterError {s : State} (h : s.Runs) {l : MasterLine} (receives : s.masterReceives l = true) (ended : Bool) :
    (s.work.masterError l ended).close.ledger.Sound := by
  by_cases overflow : 248 ≤ (s.port l).link.score + 8
  · rw [Work.masterError_of_overflow receives overflow, Work.ledger_close]
    cases l with
    | cp => exact (State.slotsLost_detaches receives).sound h fun _ _ => h.cab_permits
    | sp =>
      refine (State.attachment_detaches receives).sound h fun _ => h.spreader_permits fun unattached => ?_
      obtain cycling | ⟨-, search⟩ := State.receives_state receives
      · have attached : s.attached.isSome = true := h.engine.attachment.mpr cycling
        rw [unattached] at attached
        exact Bool.noConfusion attached
      · exact search
  · rw [Work.masterError_of_below (by omega)]
    exact (h.judged_scoreError (by omega)).windowOver l ended

theorem State.Runs.masterStray {s : State} (h : s.Runs) (l : MasterLine) (ended : Bool) :
    (s.work.masterStray l ended).close.ledger.Sound := (h.judged_scoreGood l).windowOver l ended

end Sys2Proof.Machine
end

section
namespace Sys2Proof.Machine

/-! ### Holds and releases (R80, R86, R115, R116, R149, R150) -/

theorem PortHeld.ledger {l : MasterLine} {s t : State} (held : PortHeld l s t) :
    t.ledger = { s.ledger.setPort l .held with image := t.image } := by
  conv_lhs => rw [held.ends.ledger, held.port]
  cases l <;> exact Ledger.ext rfl rfl rfl rfl rfl rfl rfl rfl (s.excess_raiseAll _)

/-- R12: as a port enters HELD, the records of its area that were not ABSENT are SUSPECT(FEED). -/
theorem PortHeld.sound {l : MasterLine} {s t : State} (held : PortHeld l s t) (h : s.ledger.Sound) (run : s.operating = .run) :
    t.ledger.Sound := by
  have records : ∀ i, (s.tables.ownedBy (areaOf l) i = true ∧ t.image.get i = { s.image.get i with quality := .suspect .feed }) ∨
      ((s.tables.ownedBy (areaOf l) i = false ∨ (s.image.get i).quality = .absent) ∧ t.image.get i = s.image.get i) := by
    intro i
    by_cases kept : s.tables.ownedBy (areaOf l) i = false ∨ (s.image.get i).quality = .absent
    · exact .inr ⟨kept, held.unmarked i kept⟩
    · obtain ⟨owned, present⟩ := not_or.mp kept
      rw [Bool.not_eq_false] at owned
      exact .inl ⟨owned, held.marked i owned present⟩
  rw [held.ledger]
  refine h.setPort (fun i => ?_) fun i => ?_ <;> obtain ⟨owned, marked⟩ | ⟨kept, same⟩ := records i
  · rw [marked]
    exact .marked (h.ranges i) _
  · rw [same]
    exact .refl (h.ranges i)
  · rw [marked]
    refine .inl (Ledger.setPort_grants (x := s.ledger) run owned ?_)
    cases l with
    | sp => exact ⟨nofun, fun _ => .inr rfl, fun _ other => absurd rfl other⟩
    | cp => exact ⟨nofun, fun _ => .inr rfl⟩
  · rw [same]
    refine (h.permits i).setPort fun owned _ => ?_
    have absent : (s.ledger.image.get i).quality = .absent :=
      kept.resolve_left fun other => Bool.noConfusion (owned.symm.trans other)
    rw [absent]
    exact Owner.allows_absent _ _ _

section
variable {s : State} (h : s.Runs)
include h

theorem State.Runs.hold (l : MasterLine) : (s.work.hold l).close.ledger.Sound := (State.hold_held l s).sound h.sound h.run

/-- R86: the Cab Port takes its set again. -/
theorem State.Runs.resumeCab : s.resumeCab.ledger.Sound := by
  rw [State.ledger_resumeCab]
  exact h.sound.setPort_of_allows fun _ ⟨other, _⟩ => ⟨other, nofun⟩

theorem State.Runs.leaveDetached {l : MasterLine} (detached : (s.port l).state = .detached) :
    (s.work.leaveDetached l).close.ledger.Sound := by
  unfold Work.leaveDetached
  split
  · exact h.hold l
  · rw [Work.ledger_close]
    cases l with
    | cp => exact h.resumeCab
    | sp =>
      refine (s.ledger_enterSearch ▸ h.sound.setPort_of_allows fun q ⟨_, _, out⟩ => ?_ : s.enterSearch.ledger.Sound)
      have detached : s.ledger.sp = .detached := detached
      rw [out (detached ▸ nofun) (detached ▸ nofun)]
      exact Owner.allows_absent _ _ _

theorem State.Runs.takeOrder (l : MasterLine) : (s.takeOrder l).Runs := ⟨h.sound, h.run, h.valid, h.engine⟩

theorem State.Runs.takeHold (l : MasterLine) : (s.work.takeHold l).close.ledger.Sound := by
  have taken : ((s.takeOrder l).work).close.ledger.Sound := (Work.ledger_close _).symm ▸ h.sound
  unfold Work.takeHold
  simp only
  split
  · exact (h.takeOrder l).hold l
  · cases l with
    | sp => exact (h.takeOrder .sp).hold .sp
    | cp => exact taken
  all_goals exact taken

/-- R116: a release clears the SPREADER areas, and the port searches. -/
theorem State.Runs.takeRelease (l : MasterLine) : (s.work.takeRelease l).close.ledger.Sound := by
  have taken : ((s.takeOrder l).work).close.ledger.Sound := (Work.ledger_close _).symm ▸ h.sound
  unfold Work.takeRelease
  simp only
  split
  · rw [Work.ledger_close]
    cases l with
    | cp => exact (h.takeOrder .cp).resumeCab
    | sp => exact h.clearing (st := .search) fun i => Work.clearArea_image (s.work.on (State.takeOrder .sp)) .spreader i
  all_goals exact taken

/-! ### Responses and HAIL replies (R91, R109 to R111) -/

/-- R27, R91: a payload applied to the run of an enabled slot of a set in a CYCLING port. -/
theorem State.Runs.applySlot {l : MasterLine} (cycling : (s.port l).state = .cycling) {k : SlotIx} {e : MasterIx}
    (entry : s.activeEntry l k = some e) (enabled : (s.slotRec e).enabled = true) (bytes : List Byte) :
    (s.work.applyRun (s.tables.slotRun (s.slotRec e)) bytes).st.ledger.Sound := by
  refine (Ledger.Rewritten.applyRun (x := s.ledger) h.sound.rewritten fun p member inbound => ?_).sound
  have grants : ∀ q, q ≠ .suspect .opened → s.ledger.Grants p.addr.base q := fun q =>
    h.grants_of_cycling cycling (State.slotRun_owned h.valid h.engine.profile entry enabled member inbound)
  exact ⟨grants _ nofun, grants _ nofun, .inr (grants _ nofun)⟩

theorem State.Runs.accept {l : MasterLine} {k : SlotIx} {e : MasterIx} (turn : (s.port l).turn = .window k)
    (entry : s.activeEntry l k = some e) (payload : List Byte) : (s.work.accept l k e payload).close.ledger.Sound := by
  have cycles : s.Cycles l := State.cycles_of_turn h.engine (by rw [turn]; exact nofun)
  obtain ⟨e', entry', enabled, -⟩ := cycles.inSlot (k := k) (by rw [turn]; rfl)
  obtain rfl : e = e' := Option.some.inj (entry.symm.trans entry')
  have applied := h.applySlot cycles.cycling entry enabled (payload.take (s.slotRec e).length)
  rw [Work.applyRun_frame] at applied
  have accepted : (s.accepted l k e (s.work.applyRun (s.tables.slotRun (s.slotRec e))
      (payload.take (s.slotRec e).length)).st.image).ledger.Sound := by cases l <;> exact applied
  rw [Work.ledger_close, Work.accept_eq, State.ledger_requestIf]
  split
  · rw [State.ledger_raise]
    exact accepted
  · exact accepted

theorem State.Runs.response {l : MasterLine} {f : Frame} (response : (s.responseFor l f).isSome = true) :
    (s.work.response l f).close.ledger.Sound := by
  obtain ⟨⟨k, e⟩, response⟩ := Option.isSome_iff_exists.mp response
  obtain ⟨turn, entry, -⟩ := State.responseFor_eq_some.mp response
  have judged := State.Judged.of_frame (State.goodScored (masterLine l) s).frame
  rw [Work.response_eq response]
  exact (h.judged_scoreGood l).accept (judged.turn.trans turn) ((judged.sets k).trans entry) f.payload

end

/-- R110: a spreader that is attached finds its area cleared. -/
theorem State.sound_takeReply {s : State} (h : s.ledger.Sound) (searches : s.sp.state = .search) (payload : List Byte) :
    (s.takeReply payload).ledger.Sound := by
  unfold State.takeReply
  split
  · rw [State.ledger_attach]
    refine h.setPort_of_allows fun q ⟨_, _, out⟩ => ?_
    have searches : s.ledger.sp = .search := searches
    rw [out (searches ▸ nofun) (searches ▸ nofun)]
    exact Owner.allows_absent _ _ _
  · rwa [State.ledger_unknownReply]

/-! ### What the festoon's slots and a scan leave in their records (R123, R124, R136, R142) -/

section
variable {s : State} (run : s.operating = .run) (valid : s.tables.validate = none)
include run valid

/-- R123, R124: what the festoon's slots leave in the records of their area. -/
theorem State.grants_of_festoon {k : SlotIx} (enabled : (s.tables.festoonSlots.get k).enabled = true) {p : Placement}
    (member : p ∈ s.tables.festoonRun (s.tables.festoonSlots.get k)) (inbound : p.direction = .inbound) {q : Quality}
    (allowed : Owner.festoon.Allows s.sp.state s.cp.state q) : s.ledger.Grants p.addr.base q :=
  ⟨.festoon, .inl run, Tables.festoonRun_owned valid enabled member inbound, allowed⟩

/-- R142: what a scan leaves in the records of the TROLLEY areas. -/
theorem State.grants_of_trolley {x : Examined} (places : s.tables.Places x) (trolley : x.set.owner = .trolley) {p : Placement}
    (member : p ∈ s.tables.placed x) (inbound : p.direction = .inbound) {q : Quality}
    (allowed : q = .suspect .opened ∨ q = .good ∨ q = .clamped) :
    s.ledger.Grants p.addr.base q ∧ p.offset + p.width ≤ 8 * x.length := by
  obtain ⟨owned, inside⟩ := Tables.placed_owned valid places member inbound
  exact ⟨⟨.trolley, .inl run, trolley ▸ owned, .inr allowed⟩, inside⟩

theorem State.rewritten_applyL0 {w : Work} (rewritten : s.ledger.Rewritten w.st.ledger) (outcome : Nat → Option ReadingOutcome)
    (payload : List Byte) : s.ledger.Rewritten (w.applyL0 outcome payload).st.ledger := by
  have tables : w.st.tables = s.tables := rewritten.tables
  unfold Work.applyL0
  rw [tables]
  refine Ledger.Rewritten.foldl _ (fun p member w rewritten => ?_) rewritten
  obtain ⟨member, inbound⟩ := List.mem_filter.mp member
  have grants := fun q => State.grants_of_trolley run valid (.inr (.inl rfl)) rfl member (beq_iff_eq.mp inbound) (q := q)
  unfold Work.applyL0One
  simp only
  split
  · exact rewritten.marked (grants _ (.inl rfl)).1
  split
  · exact rewritten
  · exact rewritten.applyOne (grants _ (.inr (.inl rfl))).1 (grants _ (.inr (.inr rfl))).1 (.inl (grants _ (.inl rfl)).2)

variable (h : s.ledger.Sound)
include h

/-! ### The festoon line (R123, R124) -/

theorem State.sound_acceptFestoon {k : SlotIx} (enabled : (s.tables.festoonSlots.get k).enabled = true) (payload : List Byte) :
    (s.work.acceptFestoon k payload).close.ledger.Sound := by
  have applied : (s.work.applyRun (s.tables.festoonRun (s.tables.festoonSlots.get k))
      (payload.take (s.tables.festoonSlots.get k).length)).st.ledger.Sound := by
    refine (Ledger.Rewritten.applyRun (x := s.ledger) h.rewritten fun p member inbound => ?_).sound
    have grants := fun q => State.grants_of_festoon run valid enabled member inbound (q := q)
    exact ⟨grants _ ⟨nofun, nofun⟩, grants _ ⟨nofun, nofun⟩, .inr (grants _ ⟨nofun, nofun⟩)⟩
  rw [Work.applyRun_frame] at applied
  rw [Work.ledger_close, Work.acceptFestoon_eq, State.ledger_requestIf]
  split
  · rw [State.ledger_raise]
    exact applied
  · exact applied

theorem State.sound_staleExpiry {k : SlotIx} (enabled : (s.tables.festoonSlots.get k).enabled = true) :
    (s.work.staleExpiry k).close.ledger.Sound := by
  rw [Work.ledger_close, Work.staleExpiry]
  refine (Ledger.Rewritten.stale (x := s.ledger) (Ledger.Rewritten.on (w := s.work) h.rewritten ?_) fun i named => ?_).sound
  · exact State.ledger_raise _ _
  · obtain ⟨p, member, inbound, rfl⟩ := mem_writtenSignals.mp named
    exact State.grants_of_festoon run valid enabled member inbound ⟨nofun, nofun⟩

/-! ### Sweeps (R14, R50) -/

theorem State.sound_sweep : s.work.sweep.close.ledger.Sound := by
  have outputs : s.ledger.Rewritten s.outputsWritten.st.ledger := by
    unfold State.outputsWritten
    rw [Work.writeOutputs_eq]
    refine Ledger.Rewritten.foldl (indices 32) (fun g _ w rewritten => ?_) h.rewritten
    have tables : w.st.tables = s.tables := rewritten.tables
    cases enabled : (w.st.tables.gates.get g).enabled with
    | false => rwa [w.writeOutput_of_disabled g enabled]
    | true =>
      rw [w.writeOutput_of_enabled g enabled]
      refine rewritten.written ?_ ⟨.gate, .inl run, ?_, .inl rfl⟩
      · split <;> exact ⟨by decide, by decide⟩
      · rw [tables] at enabled ⊢
        exact (s.tables.ownedBy_assigns _ _).mpr (Tables.gate_output_assigned valid enabled)
  rw [Work.ledger_close, State.sweep_eq]
  generalize s.outputsWritten = w at outputs
  have raised := outputs.on (f := fun u => u.raiseAll (sweepEvents s.gateRt u.gateRt)) (State.ledger_raiseAll _ _)
  exact (raised.on (f := fun u => (u.sweepChains s.gateRt).restartSweepTimer) (State.ledger_sweepChains _ _)).sound

/-! ### Scans (R131 to R137) -/

theorem State.rewritten_scanChannels (readings : Tab (BitVec 12) 16) : s.ledger.Rewritten (s.scanChannels readings).st.ledger := by
  unfold State.scanChannels
  refine State.rewritten_applyL0 run valid (Ledger.Rewritten.on (w := s.work) h.rewritten ?_) _ _
  exact State.ledger_raiseAll _ _

/-- R137: L1 holds as many bits as its placements may name. -/
theorem State.rewritten_scanTerminals (samples : BitVec 16) (readings : Tab (BitVec 12) 16) :
    s.ledger.Rewritten (s.scanTerminals samples readings).st.ledger := by
  have scanned := State.rewritten_scanChannels run valid h readings
  unfold State.scanTerminals
  generalize s.scanChannels readings = w at scanned
  refine Ledger.Rewritten.applyRun (Ledger.Rewritten.on (w := w) scanned rfl) fun p member inbound => ?_
  have grants := fun q => State.grants_of_trolley run valid (.inr (.inr (.inl rfl))) rfl member inbound (q := q)
  have length : (l1Payload (s.countedInputs samples)).length = 2 := rfl
  rw [length]
  exact ⟨(grants _ (.inr (.inl rfl))).1, (grants _ (.inr (.inr rfl))).1, .inl (grants _ (.inl rfl)).2⟩

theorem State.sound_completeScan (samples : BitVec 16) (readings : Tab (BitVec 12) 16) :
    (s.work.completeScan samples readings).close.ledger.Sound := by
  have scanned := State.rewritten_scanTerminals run valid h samples readings
  rw [Work.ledger_close, State.completeScan_eq]
  generalize s.scanTerminals samples readings = w at scanned
  refine (Ledger.Rewritten.on (w := w) scanned ?_).sound
  rw [State.ledger_handOver, State.ledger_handOver]
  rfl

end

/-! ### The age timer (R2) -/

/-- R2: a record that no owner holds is as old as it can be. -/
theorem State.sound_tick {s : State} (h : s.ledger.Sound) : s.tick.ledger.Sound := by
  refine h.of_records (y := s.tick.ledger) rfl rfl rfl (fun i => ?_) fun i => ?_
  all_goals rw [show s.tick.ledger.image.get i = (s.image.get i).aged from Tab.get_map _ _ i]
  · exact ⟨(h.ranges i).aged, .inl rfl⟩
  · obtain grants | ⟨-, cleared⟩ := h.permits i
    · exact .inl grants
    · refine Ledger.permits_absent ?_
      rw [show s.image.get i = .absent from cleared]
      rfl

end Sys2Proof.Machine
end

section
namespace Sys2Proof.Machine

/-! ### What a management command finds -/

/-- What the invariants say of the part, as far as a sound ledger rests on them. -/
structure State.Sound (s : State) : Prop where
  ledger : s.ledger.Sound
  engine : s.engine.Fit
  hub : s.hub.Fit
  rests : s.Rests

section
variable {s : State} (h : s.Sound)
include h

theorem State.Sound.valid (run : s.operating = .run) : s.tables.validate = none := h.hub.passed (h.hub.run run)

theorem State.Sound.runs (run : s.operating = .run) : s.Runs := ⟨h.ledger, run, h.valid run, h.engine⟩

theorem State.Sound.festoonGood (receives : s.festoonReceives = true) : s.festoonGood.Sound where
  ledger := State.sound_festoonGood h.ledger h.valid
  engine := State.engine_fit_festoonGood h.engine
  hub := (State.silent_festoonGood h.hub receives).fit
  rests := h.rests.festoonGood

end

/-- A management command keeps the ledger sound. -/
def KeepsLedger (command : Work → Served) : Prop := ∀ w : Work, w.st.Sound → (command w).work.st.ledger.Sound

theorem keepsLedger_of_same {command : Work → Served} (same : ∀ w, (command w).work.st.ledger = w.st.ledger) : KeepsLedger command :=
  fun w h => same w ▸ h.ledger

theorem Work.enterConfig_keepsLedger : KeepsLedger Work.enterConfig := fun w h => by
  unfold Work.enterConfig
  split
  · exact h.ledger
  · exact State.sound_toConfig h.ledger h.valid

theorem Work.enterRun_keepsLedger : KeepsLedger Work.enterRun := fun w h => by
  unfold Work.enterRun
  split
  · exact h.ledger
  · next config =>
    split
    · exact h.ledger
    · exact State.sound_toRun (s := { w.st with validated := true }) h.ledger config

/-! ### Writes of the tables (R6, R34, R155) -/

section
variable {t t' : Tables} {table : TableId} {n : Nat} {bs : List Byte} {clamped : Bool}

/-- Only table AREA holds the plan, and only table CONVERSION the conversions. -/
theorem Tables.write_plan (h : t.write table n bs = some (t', clamped)) :
    (table ≠ .area → t'.areas = t.areas) ∧ (table ≠ .conversion → t'.conversions = t.conversions) := by
  cases table with
  | area =>
    obtain ⟨_, _, -, rfl⟩ := written_entry h
    exact ⟨absurd rfl, fun _ => rfl⟩
  | conversion =>
    obtain ⟨_, _, -, rfl⟩ := written_entry h
    exact ⟨fun _ => rfl, absurd rfl⟩
  | line | profile | placement | term | feed | watch =>
    obtain ⟨_, _, -, rfl⟩ := written_entry h
    exact ⟨fun _ => rfl, fun _ => rfl⟩
  | slot =>
    simp only [Tables.write] at h
    split at h <;> obtain ⟨_, _, -, rfl⟩ := written_entry h <;> exact ⟨fun _ => rfl, fun _ => rfl⟩
  | gate =>
    simp only [Tables.write] at h
    split at h
    · simp only [Option.bind_eq_bind, Option.bind_eq_some_iff, Option.pure_def, Option.some.injEq, Prod.mk.injEq] at h
      obtain ⟨_, -, rfl, -⟩ := h
      exact ⟨fun _ => rfl, fun _ => rfl⟩
    · obtain ⟨_, _, -, rfl⟩ := written_entry h
      exact ⟨fun _ => rfl, fun _ => rfl⟩
  | trolley =>
    simp only [Tables.write] at h
    split at h
    · obtain ⟨_, _, -, rfl⟩ := written_entry h
      exact ⟨fun _ => rfl, fun _ => rfl⟩
    split at h
    · obtain ⟨_, _, -, rfl⟩ := written_entry h
      exact ⟨fun _ => rfl, fun _ => rfl⟩
    split at h
    case h_5 => cases h
    all_goals
      simp only [Option.map_eq_some_iff, Prod.mk.injEq] at h
      obtain ⟨_, -, rfl, -⟩ := h
      exact ⟨fun _ => rfl, fun _ => rfl⟩

theorem signalRange_intAt (bs : List Byte) (k : Nat) : signalRange (intAt bs k) := by
  have least := BitVec.le_toInt (BitVec.ofNat 16 (wordAt bs k))
  have most := BitVec.toInt_lt (x := BitVec.ofNat 16 (wordAt bs k))
  unfold signalRange intAt
  omega

theorem conversionOf?_limits {c : Conversion} (h : conversionOf? bs = some c) : signalRange c.lo ∧ signalRange c.hi ∧ c.lo ≤ c.hi := by
  unfold conversionOf? at h
  split at h
  · split at h
    · cases h
    · simp at h
  · next ordered =>
    split at h
    · cases h
    · simp only [Option.bind_eq_bind, Option.bind_eq_some_iff] at h
      obtain ⟨_, -, _, -, stored⟩ := h
      obtain rfl := Option.some.inj stored
      exact ⟨signalRange_intAt _ _, signalRange_intAt _ _, Int.not_lt.mp ordered⟩

/-- R34: a conversion is written with its limits in order. -/
theorem Tables.ConversionsFit.write (fits : t.ConversionsFit) (h : t.write table n bs = some (t', clamped)) : t'.ConversionsFit := by
  by_cases conversion : table = .conversion
  · subst conversion
    obtain ⟨k, a, record, rfl⟩ := written_entry h
    intro c
    rw [Tab.get_set]
    split
    · exact conversionOf?_limits record
    · exact fits c
  · intro c
    rw [(Tables.write_plan h).2 conversion]
    exact fits c

end

section
variable {s : State} {table : TableId} {n : Nat} {bs : List Byte} {t : Tables} {clamped : Bool}

theorem State.ledger_acceptWrite (s : State) (table : TableId) (n : Nat) (t : Tables) :
    (s.acceptWrite table n t).ledger = { s.ledger with tables := t, image := (s.acceptWrite table n t).image } := by
  conv_lhs => rw [State.acceptWrite_frame]
  rfl

/-- R6: in CONFIG a write leaves a record to the PANEL, or cleared. -/
theorem State.permits_acceptWrite (h : s.ledger.Sound) (config : s.operating = .config) (rest : s.resting = .atRest)
    (areas : table ≠ .area → t.areas = s.tables.areas) (i : SigIx) :
    (s.acceptWrite table n t).ledger.Permits i ((s.acceptWrite table n t).image.get i) := by
  rw [State.acceptWrite_image]
  obtain ⟨owned, allows⟩ | ⟨other, cleared⟩ := h.config config i
  · split
    · refine Ledger.permits_absent ?_
      unfold SigRec.emptied
      rw [State.force_of_resting rest i]
      rfl
    · next kept =>
      refine .inl ⟨.panel, .inr rfl, ?_, allows⟩
      rw [State.ledger_acceptWrite]
      by_cases area : table = .area
      · simpa [area, owned] using kept
      · have plan : t.ownedBy .panel i = s.tables.ownedBy .panel i := by
          unfold Tables.ownedBy
          rw [areas area]
        exact plan.trans owned
  · rw [if_neg fun leaves => Bool.noConfusion (other.symm.trans leaves.2.1)]
    exact Ledger.permits_absent cleared

theorem State.sound_acceptWrite (h : s.Sound) (hw : s.operating = .config ∨ table = .watch)
    (written : s.tables.write table n bs = some (t, clamped)) : (s.acceptWrite table n t).ledger.Sound := by
  have follows : ∀ i, (s.image.get i).Follows ((s.acceptWrite table n t).image.get i) := fun i => by
    rw [State.acceptWrite_image]
    split
    · exact .emptied (h.ledger.ranges i)
    · exact .refl (h.ledger.ranges i)
  have permits : ∀ i, (s.acceptWrite table n t).ledger.Permits i ((s.acceptWrite table n t).image.get i) := by
    cases operating : s.operating with
    | config => exact State.permits_acceptWrite h.ledger operating (h.rests operating) (Tables.write_plan written).1
    | run =>
      obtain rfl := hw.resolve_left fun config => Operating.noConfusion (config.symm.trans operating)
      obtain ⟨watch, rfl⟩ := Tables.write_watch written
      intro i
      rw [State.ledger_acceptWrite, State.acceptWrite_image, if_neg (fun area => TableId.noConfusion area.1)]
      exact h.ledger.permits i
  have ledger := s.ledger_acceptWrite table n t
  rw [ledger] at permits ⊢
  exact ⟨fun i => (follows i).range, permits, h.ledger.conversions.write written,
    (forcedRecords_le fun i => (follows i).force).trans h.ledger.forces, h.ledger.gauges, h.ledger.queue⟩

theorem Work.writeTable_keepsLedger (req : List Byte) : KeepsLedger (Work.writeTable req) := fun w h => by
  unfold Work.writeTable
  split
  · exact h.ledger
  · split
    · exact h.ledger
    · next allowed =>
      simp only
      split
      · exact h.ledger
      · next written => exact State.sound_acceptWrite h (State.config_or_watch allowed) written

end

/-! ### Signals and forces (R15 to R17) -/

/-- R15: a PANEL record is written GOOD. -/
theorem Work.writeSignal_keepsLedger (index : Nat) {value : Int} (range : signalRange value) : KeepsLedger (Work.writeSignal index value) :=
  fun w h => by
    unfold Work.writeSignal
    split
    · exact h.ledger
    · split
      · next owned => exact (h.ledger.rewritten.written range ⟨.panel, .inr rfl, owned, .inl rfl⟩).sound
      · exact h.ledger

/-- R16: a forceable index is an owner's. -/
theorem Tables.owned_of_forceable {t : Tables} {i : SigIx} (forceable : t.forceable i = true) : ∃ o, t.ownedBy o i = true := by
  obtain ⟨a, member, forces⟩ := List.any_eq_true.mp forceable
  refine ⟨a.owner, List.any_eq_true.mpr ⟨a, member, ?_⟩⟩
  rw [(Bool.and_eq_true_iff.mp forces).1, beq_self_eq_true]
  rfl

/-- The number of records that carry a force, as the size of a set. -/
theorem forcedRecords_eq_card (image : Tab SigRec 512) :
    forcedRecords image = (Finset.univ.filter fun i => (image.get i).force.isSome = true).card := by
  unfold forcedRecords
  rw [Tab.cells_eq, List.countP_map, List.countP_eq_length_filter]
  simp [Finset.card, Finset.filter, Fin.univ_def, Function.comp_def, indices]

/-- R16: one record changed is one force part more at most. -/
theorem forcedRecords_modify (image : Tab SigRec 512) (i : SigIx) (f : SigRec → SigRec) :
    forcedRecords (image.modify i f) ≤ forcedRecords image + 1 := by
  rw [forcedRecords_eq_card, forcedRecords_eq_card]
  refine le_trans (Finset.card_le_card fun j forced => ?_) (Finset.card_insert_le i _)
  rw [Finset.mem_filter_univ, Tab.get_modify] at forced
  rw [Finset.mem_insert, Finset.mem_filter_univ]
  split at forced
  · next same => exact .inl same
  · exact .inr forced

/-- R16: a force on a record that carries one already adds none. -/
theorem forcedRecords_modify_of_forced {image : Tab SigRec 512} {i : SigIx} (forced : (image.get i).force.isSome = true)
    (f : SigRec → SigRec) : forcedRecords (image.modify i f) ≤ forcedRecords image := by
  rw [forcedRecords_eq_card, forcedRecords_eq_card]
  refine Finset.card_le_card fun j member => ?_
  rw [Finset.mem_filter_univ, Tab.get_modify] at member
  rw [Finset.mem_filter_univ]
  split at member
  · next same => exact same ▸ forced
  · exact member

/-- R16: a force on an owned record, within the limit. -/
theorem Ledger.Sound.force {s : State} (h : s.ledger.Sound) (run : s.operating = .run) {i : SigIx} {value : Int} (range : signalRange value)
    (forceable : s.tables.forceable i = true) (room : (s.image.get i).force.isSome = true ∨ s.forceCount < 32) :
    (s.work.changeAt i (SigRec.forcedTo value)).st.ledger.Sound := by
  have image : ∀ j, (s.image.modify i (SigRec.forcedTo value)).get j =
      if j = i then (s.image.get i).forcedTo value else s.image.get j := fun j => Tab.get_modify _ _ _ _
  refine ⟨fun j => ?_, fun j => ?_, h.conversions, ?_, h.gauges, h.queue⟩
  · refine (image j).symm ▸ ?_
    split
    · exact (h.ranges i).forcedTo range
    · exact h.ranges j
  · refine (image j).symm ▸ ?_
    split
    · next same =>
      subst same
      obtain ⟨o, owned⟩ := Tables.owned_of_forceable forceable
      exact .inl ((h.permits j).resolve_right fun bare => Bool.noConfusion (owned.symm.trans (bare.1 o (.inl run))))
    · exact h.permits j
  · obtain forced | below := room
    · exact (forcedRecords_modify_of_forced forced _).trans h.forces
    · exact (forcedRecords_modify _ _ _).trans below

theorem Work.force_keepsLedger (index : Nat) {value : Int} (range : signalRange value) : KeepsLedger (Work.force index value) :=
  fun w h => by
    unfold Work.force
    split
    · exact h.ledger
    next run =>
    split
    · exact h.ledger
    next i _ =>
    split
    · exact h.ledger
    next forceable =>
    split
    · exact h.ledger
    next room =>
    refine h.ledger.force run range (by simpa using forceable) ?_
    by_contra full
    obtain ⟨free, reached⟩ := not_or.mp full
    exact room (by simp_all [Config.forceLimit])

/-- R17: a release takes the force part of a record that has an owner. -/
theorem Ledger.Sound.release {s : State} (h : s.ledger.Sound) {image : Tab SigRec 512} (records : ∀ i, image.get i = s.image.get i ∨
    ((s.image.get i).force.isSome = true ∧ image.get i = { s.image.get i with force := none })) :
    (State.ledger { s with image := image }).Sound := by
  refine h.setImage fun i => (records i).imp_right fun ⟨forced, released⟩ => ?_
  rw [released]
  refine ⟨(h.permits i).grants fun cleared => ?_, (h.ranges i).released, .inr rfl⟩
  rw [show s.image.get i = .absent from cleared] at forced
  exact Bool.noConfusion forced

theorem Work.release_keepsLedger (index : Nat) : KeepsLedger (Work.release index) := fun w h => by
  unfold Work.release
  split
  · exact h.ledger
  · next i _ =>
    simp only
    split
    · next forced =>
      refine h.ledger.release fun j => ?_
      rw [Tab.get_modify]
      split
      · next same =>
        subst same
        exact .inr ⟨forced, rfl⟩
      · exact .inl rfl
    · exact h.ledger

theorem Work.releaseAll_keepsLedger : KeepsLedger Work.releaseAll := fun w h => by
  refine h.ledger.release fun i => ?_
  rw [Tab.get_mapIdx]
  split
  · next forced => exact .inr ⟨forced, rfl⟩
  · exact .inl rfl

/-! ### Events read, slots armed, and the rest -/

/-- R173: a read of the queue leaves no more than it held. -/
theorem Work.readEvents_keepsLedger (maximum : Nat) : KeepsLedger (Work.readEvents maximum) := fun _ h =>
  ⟨h.ledger.ranges, h.ledger.permits, h.ledger.conversions, h.ledger.forces, h.ledger.gauges,
    Nat.sub_eq_zero_of_le ((List.length_drop ▸ Nat.sub_le _ _).trans (Nat.sub_eq_zero_iff_le.mp h.ledger.queue))⟩

theorem Work.ledger_sendOnce (line slot : Nat) (w : Work) : (w.sendOnce line slot).work.st.ledger = w.st.ledger := by
  unfold Work.sendOnce
  split
  · rfl
  split
  · split
    · rfl
    · simp only; split <;> rfl
  · rfl

theorem State.Sound.serve {s : State} (h : s.Sound) (receives : s.festoonReceives = true) {command : Work → Served}
    (hc : KeepsLedger command) (tag : BitVec 6) (code : Nat) : (s.serve tag code command).ledger.Sound :=
  (Work.ledger_close _).symm ▸ hc s.festoonGood.work (h.festoonGood receives)

end Sys2Proof.Machine
end

section
namespace Sys2Proof.Machine

/-! ### Every command -/

section
variable {s t : State} {possible : Bool} {next : State}

theorem State.Sound.of_occurs (h : s.Sound) (hn : possible = true → next.ledger.Sound) (ht : s.occurs possible next = .next t) :
    t.ledger.Sound := State.keeps_of_occurs (P := fun s => s.ledger.Sound) h.ledger hn ht

theorem State.Sound.of_occurs_same (h : s.Sound) (same : next.ledger = s.ledger) (ht : s.occurs possible next = .next t) :
    t.ledger.Sound := h.of_occurs (fun _ => same ▸ h.ledger) ht

/-- An event that occurs in RUN alone. -/
theorem State.Sound.of_occurs_run (h : s.Sound) (run : possible = true → s.operating = .run)
    (hn : s.Runs → possible = true → next.ledger.Sound) (ht : s.occurs possible next = .next t) : t.ledger.Sound :=
  h.of_occurs (fun occurs => hn (h.runs (run occurs)) occurs) ht

theorem State.Sound.of_manage (h : s.Sound) {tag : BitVec 6} {code need : Nat} {req : List Byte} {command : Work → Served}
    (hc : KeepsLedger command) (ht : s.manage tag code need req command = .next t) : t.ledger.Sound := by
  refine h.of_occurs (fun occurs => h.serve (Bool.and_eq_true_iff.mp occurs).1 (fun w sound => ?_) tag code) ht
  unfold withRequest
  split
  · exact sound.ledger
  · exact hc w sound

end

/-- R123: DATA taken by its festoon slot. -/
theorem State.Sound.takeData {s : State} (h : s.Sound) (receives : s.festoonReceives = true) (f : Frame) :
    (s.takeData f).ledger.Sound := by
  unfold State.takeData
  split
  · exact h.ledger
  · next k found =>
    obtain ⟨⟨run, -⟩, named⟩ := State.festoonDataSlot_eq_some.mp found
    rw [← s.festoonGood_scored.operating] at run
    rw [← s.festoonGood_scored.tables] at named
    have good := h.festoonGood receives
    exact State.sound_acceptFestoon run (good.valid run) good.ledger named.enabled f.payload

theorem State.Sound.takePoll {s : State} (h : s.Sound) (receives : s.festoonReceives = true) (f : Frame) :
    (s.takePoll f).ledger.Sound := by
  unfold State.takePoll
  split
  · exact h.ledger
  · exact (h.festoonGood receives).ledger

/-- Every command keeps the ledger sound: those of the master lines, the gates and the terminals occur in RUN alone. -/
theorem exec_keeps_ledger {c : Instr} {s t : State} (h : s.Sound) (ht : exec c s = .next t) : t.ledger.Sound := by
  cases c with
  | powerOn strap | resetInputRelease strap =>
    obtain rfl := Host.Outcome.next.inj ht
    exact State.sound_powerOn _ _
  | resetInputAssert =>
    obtain rfl := Host.Outcome.next.inj ht
    exact s.ledger_holdReset ▸ h.ledger
  | ageTimerExpiry => exact h.of_occurs (fun _ => State.sound_tick h.ledger) ht
  | warmRestart =>
    exact h.of_occurs (fun _ => (State.ledger_setPhase _ _ _).symm ▸ State.sound_warmRestart h.ledger h.valid) ht
  | status tag req | restart tag req => exact h.of_manage (keepsLedger_of_same fun _ => rfl) ht
  | readEvents tag req => exact h.of_manage (Work.readEvents_keepsLedger _) ht
  | enterConfig tag req => exact h.of_manage Work.enterConfig_keepsLedger ht
  | enterRun tag req => exact h.of_manage Work.enterRun_keepsLedger ht
  | readTable tag req => exact h.of_manage (keepsLedger_of_same fun w => by rw [Work.readTable_frame]; rfl) ht
  | writeTable tag req => exact h.of_manage (Work.writeTable_keepsLedger req) ht
  | readSignals tag req => exact h.of_manage (keepsLedger_of_same fun w => by rw [Work.readSignals_work]) ht
  | writeSignal tag req => exact h.of_manage (Work.writeSignal_keepsLedger _ (signalRange_intAt _ _)) ht
  | force tag req => exact h.of_manage (Work.force_keepsLedger _ (signalRange_intAt _ _)) ht
  | release tag req => exact h.of_manage (Work.release_keepsLedger _) ht
  | releaseAll tag req => exact h.of_manage Work.releaseAll_keepsLedger ht
  | sendOnce tag req => exact h.of_manage (keepsLedger_of_same (Work.ledger_sendOnce _ _)) ht
  | unknownCommand tag payload =>
    exact h.of_occurs (fun occurs => h.serve (Bool.and_eq_true_iff.mp occurs).1 (keepsLedger_of_same fun _ => rfl) tag _) ht
  | frameError line chars ended =>
    have master : ∀ l : MasterLine, (isFrameError chars && s.masterReceives l) = true →
        (s.work.masterError l ended).close.ledger.Sound := fun l occurs => by
      have receives := (Bool.and_eq_true_iff.mp occurs).2
      exact (h.runs (h.rests.run_of_port l (State.on_of_receives receives))).masterError receives ended
    cases line with
    | sp => exact h.of_occurs (master .sp) ht
    | cp => exact h.of_occurs (master .cp) ht
    | fp => exact h.of_occurs (fun _ => State.sound_festoonError h.ledger h.valid) ht
  | strayFrame line f ended =>
    have master : ∀ (l : MasterLine) {a c : Bool}, (a && s.masterReceives l && c) = true →
        (s.work.masterStray l ended).close.ledger.Sound := fun l _ _ occurs => by
      have receives := (Bool.and_eq_true_iff.mp (Bool.and_eq_true_iff.mp occurs).1).2
      exact (h.runs (h.rests.run_of_port l (State.on_of_receives receives))).masterStray l ended
    cases line with
    | sp => exact h.of_occurs (master .sp) ht
    | cp => exact h.of_occurs (master .cp) ht
    | fp => exact h.of_occurs (fun _ => State.sound_festoonGood h.ledger h.valid) ht
  | masterResponseAccepted line f =>
    refine h.of_occurs_run (fun occurs => h.rests.run_of_port line (State.on_of_receives ?_)) (fun runs occurs => ?_) ht
    · exact (Bool.and_eq_true_iff.mp (Bool.and_eq_true_iff.mp occurs).1).2
    · exact runs.response (Bool.and_eq_true_iff.mp occurs).2
  | hailReplyTaken f =>
    refine h.of_occurs (fun occurs => ?_) ht
    have valid := (Bool.and_eq_true_iff.mp occurs).2
    have searches : s.sp.state = .search := by simp_all [State.validReply]
    have port : (((s.judged .sp).scoreGood .sp).engine.port .sp).state = (s.engine.port .sp).state := by
      rw [State.engine_judged_scoreGood]
    exact State.sound_takeReply (State.sound_judged_scoreGood h.ledger) (port.trans searches) f.payload
  | festoonDataAccepted f =>
    refine h.of_occurs (fun occurs => h.takeData ?_ f) ht
    exact (Bool.and_eq_true_iff.mp (Bool.and_eq_true_iff.mp occurs).1).2
  | festoonPoll f =>
    refine h.of_occurs (fun occurs => h.takePoll ?_ f) ht
    exact (Bool.and_eq_true_iff.mp (Bool.and_eq_true_iff.mp occurs).1).2
  | festoonReceptionStart => exact h.of_occurs (fun _ => State.sound_beginReception h.ledger h.valid) ht
  | festoonDataAnswer => exact h.of_occurs_same s.ledger_beginAnswer ht
  | mgmtReplyStart => exact h.of_occurs_same s.ledger_beginReply ht
  | cycleTimerExpiry line => exact h.of_occurs_same (s.ledger_cycleExpiry line) ht
  | outTurnStart line => exact h.of_occurs_same (s.ledger_beginOut line) ht
  | outFrameEnd line => exact h.of_occurs_same (s.ledger_endOut line) ht
  | turnBoundary line => exact h.of_occurs_same (s.ledger_atBoundary line) ht
  | inTurn line => exact h.of_occurs_same (s.ledger_beginIn line) ht
  | pollEnd line => exact h.of_occurs_same (s.ledger_openWindow line) ht
  | responseWindowExpiry line =>
    refine h.of_occurs_run (fun waits => h.rests.run_of_port line (State.on_of_turn ?_)) (fun runs => runs.windowExpiry) ht
    simp [waits]
  | firstHail | searchTimerExpiry => exact h.of_occurs_same s.ledger_sendHail ht
  | hailEnd =>
    exact h.of_occurs_same (next := { s.setPhase .sp .rested with hail := .window }) (s.ledger_setPhase .sp .rested) ht
  | searchWindowExpiry | l2ChainBuild | scanTimerExpiry => exact h.of_occurs_same (by rfl) ht
  | detachTimerExpiry line =>
    have master : ∀ {l : MasterLine}, ((s.port l).state == .detached && (s.port l).detachTimer.isSome) = true →
        (s.work.leaveDetached l).close.ledger.Sound := fun {l} occurs => by
      have detached : (s.port l).state = .detached := beq_iff_eq.mp (Bool.and_eq_true_iff.mp occurs).1
      exact (h.runs (h.rests.run_of_port l (detached ▸ nofun))).leaveDetached detached
    cases line with
    | sp => exact h.of_occurs (master (l := .sp)) ht
    | cp => exact h.of_occurs (master (l := .cp)) ht
    | fp => exact h.of_occurs (fun _ => s.ledger_relisten ▸ h.ledger.setGauge .fp gaugeFits_fresh) ht
  | staleTimerExpiry slot =>
    refine h.of_occurs (fun timed => ?_) ht
    have run := h.rests.run_of_timed timed
    exact State.sound_staleExpiry run (h.valid run) h.ledger (h.hub.timers slot timed).1
  | sweep => exact h.of_occurs_run State.run_of_possible (fun runs _ => State.sound_sweep runs.run runs.valid runs.sound) ht
  | scanCompletion samples readings =>
    exact h.of_occurs_run State.run_of_possible (fun runs _ => State.sound_completeScan runs.run runs.valid runs.sound _ _) ht
  | feedReading feed => exact h.of_occurs_same (s.ledger_takeReading feed) ht
  | portHold line =>
    exact h.of_occurs_run (fun order => h.rests.run_of_order (beq_iff_eq.mp order)) (fun runs _ => runs.takeHold line) ht
  | portRelease line =>
    exact h.of_occurs_run (fun order => h.rests.run_of_order (beq_iff_eq.mp order)) (fun runs _ => runs.takeRelease line) ht
  | lineRest line => exact h.of_occurs_same (s.ledger_setPhase line _) ht

theorem step_keeps_ledger {s t : State} (h : s.Inv) (ht : step s = .next t) : t.ledger.Sound := by
  unfold step at ht
  split at ht
  · obtain rfl := Host.Outcome.next.inj ht
    exact h.ledger_sound
  · next rest _ =>
    exact exec_keeps_ledger (s := s.withPending rest) ⟨h.ledger_sound, h.engine_fit, h.hub_fit, h.rest.rests.of_same rfl⟩ ht

/-- Settles O54: what the statement says of the records, the conversions, the forces, the scores and the queue is part of a sound
ledger, which every command keeps. -/
theorem stepKeepsRanges : Obligations.StepKeepsRanges :=
  ⟨fun _ _ h ht => (step_keeps_ledger h ht).imageInv, fun _ _ h ht => (step_keeps_ledger h ht).countersInv⟩

/-- Settles O60: and so is what the statement says of the qualities, for the tables of RUN give an index one owner at most. -/
theorem stepKeepsQualities : Obligations.StepKeepsQualities := fun _ _ h ht =>
  (step_keeps_ledger h ht).qualityInv fun run => (step_keeps_hub h ht).passed ((step_keeps_hub h ht).run run)

end Sys2Proof.Machine
end
